-- ==== Sys2Proof/Word.lean ====
section
/-! DEFINITION. The machine's plain data types: bytes, words, four-word registers and 64-byte blocks
(spec/00_scope.md R6, spec/10_state.md R21 and R22, spec/30_encoding.md R95). -/

namespace Sys2Proof

/-- A byte is 8 bits (R6). -/
abbrev Byte := BitVec 8

/-- A word is 32 bits, unsigned (R6). -/
abbrev Word := BitVec 32

/-- Four words written as one unit: the hash state `H[0..3]` with its aliases A, B, C, D (R21), and
the working registers a, b, c, d (R22). -/
structure Quad where
  a : Word
  b : Word
  c : Word
  d : Word
deriving DecidableEq, Repr, Inhabited

/-- A block as the 512-bit port of CMP carries it: byte `k` at bits `8k+7 : 8k` (R95). -/
abbrev Block := BitVec 512

/-- Four words as a 128-bit port carries them: word `j` at bits `32j+31 : 32j` (R34, R95). -/
abbrev QuadPort := BitVec 128

end Sys2Proof
end

