-- ==== Sys2Proof/Config.lean ====
section
/-! DEFINITION. What the spec fixes for every instance, and the free values: the values the spec calls
unspecified and after which the machine goes on. Each free value is an opaque constant, so nothing can be
proved of it. It is applied to the whole state, whose counter `draws` advances at every drawing, so that two
drawings are two unrelated values and no two different states are forced to agree (log entry 5). -/

namespace Sys2Proof

/-- Contexts per instance (R5, R36). -/
def Config.nctx : Nat := 1

/-- Bytes in a block, and in the pending buffer (R5, R28). -/
def Config.blockBytes : Nat := 64

/-- DESIGN CHOICE, safe (log entries 6 and 9). LEN after FINAL (R156) and after a hardware reset (R35). -/
opaque Config.freeLength {σ : Type} (s : σ) : BitVec 64

/-- DESIGN CHOICE, safe (log entry 6). CNT after FINAL (R156): six free bits, so that CNT stays in the
legal range 0 to 63 that R27 and R30 give for the end of every command. -/
opaque Config.freeCount {σ : Type} (s : σ) : BitVec 6

/-- DESIGN CHOICE, safe (log entry 9). CNT and T after a hardware reset (R35): any of the 128 values;
`i` tells the two apart. -/
opaque Config.freeSeven {σ : Type} (s : σ) (i : Nat) : BitVec 7

/-- DESIGN CHOICE, safe (log entries 6 and 9). Byte `i` of BUF after FINAL (R156) and after a hardware
reset (R35). -/
opaque Config.freeByte {σ : Type} (s : σ) (i : Nat) : BitVec 8

/-- DESIGN CHOICE, safe (log entries 8 and 9). Word `i` of the registers that hold no defined value: the
working registers between two COMPRESS operations (R22), and H, a, b, c, d and state_out after a hardware
reset (R35). -/
opaque Config.freeWord {σ : Type} (s : σ) (i : Nat) : BitVec 32

/-- DESIGN CHOICE, safe (log entry 10). The `digest` port while `digest_valid` is 0 (R34). -/
opaque Config.freeDigest {σ : Type} (s : σ) : BitVec 128

end Sys2Proof
end

