-- ==== Sys2Proof/Machine/Operands.lean ====
section
/-! DEFINITION. Arithmetic on words, byte and word conversion, and the assembly of every operand
(spec/00_scope.md R7, R8; spec/20_memory.md R51 to R53; spec/30_encoding.md R87 to R89, R95, R97). -/

namespace Sys2Proof.Machine

/-- 32-bit addition, wrapping, without carry or flag (R7, R127). -/
def add32 (x y : Word) : Word := x + y

/-- 64-bit addition, wrapping (R7, R130). -/
def add64 (x y : BitVec 64) : BitVec 64 := x + y

/-- Bitwise AND (R7, R129). -/
def and32 (x y : Word) : Word := x &&& y

/-- Bitwise OR (R7, R129). -/
def or32 (x y : Word) : Word := x ||| y

/-- Bitwise exclusive OR (R7, R129). -/
def xor32 (x y : Word) : Word := x ^^^ y

/-- Every bit inverted (R7, R129). -/
def not32 (x : Word) : Word := ~~~ x

/-- Rotation to the left (R7, R128), used for 4 ≤ n ≤ 23 only; the spec gives n = 0 and n ≥ 32 no meaning
and lets a model total the function (log entry 17). -/
def rotl32 (x : Word) (n : Nat) : Word := (x <<< n) ||| (x >>> (32 - n))

/-- Four bytes as a word, the first the least significant (R8). -/
def dec32 (b0 b1 b2 b3 : Byte) : Word :=
  BitVec.ofNat 32 (b0.toNat + 2 ^ 8 * b1.toNat + 2 ^ 16 * b2.toNat + 2 ^ 24 * b3.toNat)

/-- A word as four bytes, the least significant first (R8). -/
def le32 (w : Word) : List Byte :=
  [w.extractLsb' 0 8, w.extractLsb' 8 8, w.extractLsb' 16 8, w.extractLsb' 24 8]

/-- A 64-bit value as eight bytes: the low word first, each word least significant byte first (R8, R53). -/
def le64 (v : BitVec 64) : List Byte := le32 (v.extractLsb' 0 32) ++ le32 (v.extractLsb' 32 32)

/-- `n` zero bytes (R9). -/
def zeroBytes (n : Nat) : List Byte := List.replicate n 0x00

/-- The number whose bytes are these, the first the least significant (R95). -/
def bytesToNat (bytes : List Byte) : Nat :=
  match bytes with
  | [] => 0
  | b :: rest => b.toNat + 2 ^ 8 * bytesToNat rest

/-- 64 bytes as the block port carries them: byte `k` at bits `8k+7 : 8k` (R95; log entry 18). -/
def blockOfBytes (bytes : List Byte) : Block := BitVec.ofNat 512 (bytesToNat bytes)

/-- Byte `k` of a block (R95). -/
def blockByte (blk : Block) (k : Nat) : Byte := blk.extractLsb' (8 * k) 8

/-- Message word `j` of a block, decoded from its bytes (R51, R111, R232). -/
def messageWord (blk : Block) (j : Nat) : Word :=
  dec32 (blockByte blk (4 * j)) (blockByte blk (4 * j + 1)) (blockByte blk (4 * j + 2))
    (blockByte blk (4 * j + 3))

/-- The first `n` blocks of 64 bytes of a byte sequence, in order (R87, R62). -/
def splitBlocks (n : Nat) (bytes : List Byte) : List (List Byte) :=
  match n with
  | 0 => []
  | n + 1 => bytes.take 64 :: splitBlocks n (bytes.drop 64)

/-- What an UPDATE of `n` bytes adds to LEN: `8 * n` modulo 2^64 (R88). -/
def bitCount (n : Nat) : BitVec 64 := BitVec.ofNat 64 (8 * n)

/-- The sixteen bytes of a hash state: words ascending, each little-endian (R52, R97). -/
def serialise (q : Quad) : List Byte := le32 q.a ++ le32 q.b ++ le32 q.c ++ le32 q.d

/-- A hash state on a 128-bit port: word `j` at bits `32j+31 : 32j` (R34, R95). -/
def quadBits (q : Quad) : QuadPort := q.d ++ q.c ++ q.b ++ q.a

/-- The four words that a 128-bit port carries: word `j` from bits `32j+31 : 32j` (R34, R95). -/
def quadOfBits (p : QuadPort) : Quad :=
  ⟨p.extractLsb' 0 32, p.extractLsb' 32 32, p.extractLsb' 64 32, p.extractLsb' 96 32⟩

/-- The four constants that INIT loads (R21, R152). -/
def initialHash : Quad := ⟨0x67452301, 0xefcdab89, 0x98badcfe, 0x10325476⟩

/-- The marker byte of the padding (R156). -/
def markerByte : Byte := 0x80

end Sys2Proof.Machine
end

