-- ==== Sys2Proof/Syntax.lean ====
section
/-! DEFINITION. The syntax: one constructor per row of spec/opcode_table.json, and the three formats in
which the table writes them (spec/30_encoding.md R82, R86; spec/40_compressor.md R110). -/

namespace Sys2Proof

/-- The 69 instructions: the four commands of CTL (R83), the operation COMPRESS of CMP (R110) and its
64 steps, named by kind and by step index (R122 to R125). Only UPDATE has an operand, its payload (R81). -/
inductive Instr where
  | nop
  | init
  | update (data : List Byte)
  | final
  | compress
  | ff00 | ff01 | ff02 | ff03 | ff04 | ff05 | ff06 | ff07 | ff08 | ff09 | ff10 | ff11 | ff12 | ff13 | ff14 | ff15
  | gg16 | gg17 | gg18 | gg19 | gg20 | gg21 | gg22 | gg23 | gg24 | gg25 | gg26 | gg27 | gg28 | gg29 | gg30 | gg31
  | hh32 | hh33 | hh34 | hh35 | hh36 | hh37 | hh38 | hh39 | hh40 | hh41 | hh42 | hh43 | hh44 | hh45 | hh46 | hh47
  | ii48 | ii49 | ii50 | ii51 | ii52 | ii53 | ii54 | ii55 | ii56 | ii57 | ii58 | ii59 | ii60 | ii61 | ii62 | ii63
deriving DecidableEq, Repr

/-- The formats of the opcode table: `cmd`, a 10-bit beat (R82); `step`, the six bits `T[5:0]` (R86);
`func`, no bits at all (R110). -/
inductive Format where
  | cmd
  | step
  | func
deriving DecidableEq, Repr

/-- One word of a format. -/
inductive Code where
  | beat (cw : BitVec 10)
  | step (t : BitVec 6)
  | func
deriving DecidableEq, Repr

/-- Why a bit pattern is no word of a format. No word that is wide enough is refused: all four opcodes
are assigned (R90) and all 64 step indices are steps (R86). -/
inductive DecodeError where
  | beatTooWide (w : Nat)
  | stepTooWide (w : Nat)
  | funcHasNoBits (w : Nat)
deriving DecidableEq, Repr

end Sys2Proof
end

