-- ==== Sys2Proof/Machine/State.lean ====
section
/-! DEFINITION. The state of one instance (spec/10_state.md R20), the ports of CMP as a unit of its own
(spec/30_encoding.md R95), what the host presents, and the state right after a hardware reset (R35, R220).
Every field is plain data. -/

namespace Sys2Proof.Machine

/-- The lifecycle register PHASE (R24). The code 0b11 is reserved and never written, so it has no
constructor (R91; log entry 16). -/
inductive Phase where
  | idle
  | active
  | done
deriving DecidableEq, Repr

/-- The two bits of PHASE (R24). -/
def Phase.bits (p : Phase) : BitVec 2 :=
  match p with
  | .idle => 0b00
  | .active => 0b01
  | .done => 0b10

/-- The fault cause CAUSE (R191). The code 0b11 is reserved and never written (R91; log entry 16). -/
inductive Cause where
  | none
  | seqFault
  | cntFault
deriving DecidableEq, Repr

/-- The two bits of CAUSE (R191). -/
def Cause.bits (c : Cause) : BitVec 2 :=
  match c with
  | .none => 0b00
  | .seqFault => 0b01
  | .cntFault => 0b10

/-- Which of the two parts moves next: CTL takes what the host presents, or CMP is in the middle of a
COMPRESS and runs the step that T selects (R23, R86). The model's own (DESIGN CHOICE, safe: log entry 4). -/
inductive Agent where
  | ctl
  | cmp
deriving DecidableEq, Repr

/-- What the host can present (DESIGN CHOICE, safe: log entry 2).
`beat`: one beat on the command port (R82).
`update`: the transaction UPDATE(data) of any length as one command (R81); the other commands are one beat
each at both levels (R85).
`compress`: the ports of the stand-alone CMP driven with both operands, and COMPRESS asked for (R95).
`start`: the same, run one step of T at a time (log entry 4).
`reset`: the hardware reset, an event outside the command stream (R220). -/
inductive Event where
  | beat (cw : BitVec 10)
  | update (data : List Byte)
  | compress (stateIn : QuadPort) (block : Block)
  | start (stateIn : QuadPort) (block : Block)
  | reset
deriving DecidableEq, Repr

/-- The pending buffer BUF (R28): the cells that differ from what an unlisted address reads as, by rising
address. -/
abbrev Memory := List Host.Cell

/-- What a byte of BUF that no cell lists reads as. The spec gives it no value (R35); 0x00 is a DESIGN
CHOICE, unsafe: log entry 11. -/
def unlistedByte : Byte := 0x00

/-- The cells from address `lo` upward are in canonical form: addresses strictly rising and below 64 (R59),
no byte equal to what an unlisted address reads as. -/
def Memory.wfFrom (lo : Nat) (m : Memory) : Bool :=
  match m with
  | [] => true
  | (a, v) :: rest => decide (lo ≤ a) && decide (a < 64) && (v != unlistedByte) && Memory.wfFrom (a + 1) rest

/-- The canonical form of BUF. -/
def Memory.wf (m : Memory) : Bool := Memory.wfFrom 0 m

/-- The machine stops. -/
inductive Fault where
  /-- Raised by `memRead` and `memWrite` for an access that does not lie in BUF[0..63] (R60, R59). Safe: no
  state is reached after it. No instruction raises it, since each access is in bounds when CNT is below 64 and
  the count is checked first (R60, R193). -/
  | bufferBounds
deriving DecidableEq, Repr

/-- No meaning for the instruction. -/
inductive Refusal where
  /-- Raised by `exec` alone, for an instruction of the table that has no meaning yet. Safe. -/
  | notModelled (mnemonic : String)
deriving DecidableEq, Repr

end Sys2Proof.Machine

namespace Sys2Proof.Machine

/-- The state. `h` to `t` are the spec's complete list (R20): `h` is H[0..3] (R21), `buf` BUF (R28), `cnt`
CNT (R27), `len` LEN (R26), `phase` PHASE (R24), `fault` and `cause` FAULT and CAUSE (R25), `work` the working
registers a, b, c, d (R22), `t` the step index T (R23). `stateIn`, `blockIn` and `stateOut` are the ports of CMP
(R95); `stateIn` is the input state that is kept until the feed-forward (R112) and the message words are a view of
`blockIn` (R111). `agent`, `input` and `draws` are the model's own: who moves next (log entry 4), what the host
presents, oldest first (log entry 2), and the count of drawings of free values (log entry 5). -/
@[ext]
structure State where
  h : Quad
  buf : Memory
  cnt : BitVec 7
  len : BitVec 64
  phase : Phase
  fault : Bool
  cause : Cause
  work : Quad
  t : BitVec 7
  stateIn : QuadPort
  blockIn : Block
  stateOut : QuadPort
  agent : Agent
  input : List Event
  draws : Nat
deriving DecidableEq, Repr

/-- Four words of zero. -/
def zeroQuad : Quad := ⟨0, 0, 0, 0⟩

/-- The machine right after the hardware reset that begins every run: PHASE is IDLE, FAULT and CAUSE are 0
(R35, R220). The spec leaves every other register unspecified; the model names zero for each (DESIGN CHOICE,
unsafe: log entries 1, 3, 4, 5 and 11), and nothing is presented yet (log entry 2). -/
def State.reset : State where
  h := zeroQuad
  buf := []
  cnt := 0
  len := 0
  phase := .idle
  fault := false
  cause := .none
  work := zeroQuad
  t := 0
  stateIn := 0
  blockIn := 0
  stateOut := 0
  agent := .ctl
  input := []
  draws := 0

/-- What the fetch finds: an instruction to run, with the state it runs in, or a transition that is no
instruction, already made. -/
inductive Fetched where
  | run (i : Instr) (s : State)
  | moved (s : State)
deriving DecidableEq, Repr

end Sys2Proof.Machine
end

