-- ==== Sys2Proof/Machine/Ops.lean ====
section
/-! DEFINITION. The named operations over the registers and over the pending buffer, the one operation that
takes a fault (spec/60_exceptions.md R196), the hardware reset (spec/70_reset_and_hazards.md R220), and what the state
becomes where the spec leaves registers unspecified. The spec has no return from a fault (R197). -/

namespace Sys2Proof.Machine

/-- All four words of H change together (R21). -/
def State.setH (s : State) (x : Quad) : State := { s with h := x }

/-- The pending buffer, whole. -/
def State.setBuf (s : State) (x : Memory) : State := { s with buf := x }

/-- CNT (R27). -/
def State.setCnt (s : State) (x : BitVec 7) : State := { s with cnt := x }

/-- LEN (R26). -/
def State.setLen (s : State) (x : BitVec 64) : State := { s with len := x }

/-- PHASE (R24). -/
def State.setPhase (s : State) (x : Phase) : State := { s with phase := x }

/-- The step index T (R23). -/
def State.setT (s : State) (x : BitVec 7) : State := { s with t := x }

/-- Which part moves next. -/
def State.setAgent (s : State) (x : Agent) : State := { s with agent := x }

/-- What the host presents. -/
def State.setInput (s : State) (x : List Event) : State := { s with input := x }

/-- FAULT and CAUSE, the fault record (R25). -/
def State.setRecord (s : State) (f : Bool) (c : Cause) : State := { s with fault := f, cause := c }

/-- The two operand ports of CMP (R95). -/
def State.setPorts (s : State) (p : QuadPort) (blk : Block) : State := { s with stateIn := p, blockIn := blk }

/-- The byte of BUF at an address. -/
def Memory.read (m : Memory) (a : Nat) : Byte :=
  match m with
  | [] => unlistedByte
  | (b, v) :: rest => if b = a then v else Memory.read rest a

/-- A cell put before others, unless its byte is what an unlisted address reads as. -/
def Memory.consCell (a : Nat) (v : Byte) (m : Memory) : Memory := if v = unlistedByte then m else (a, v) :: m

/-- One byte written, keeping the canonical form. -/
def Memory.write (m : Memory) (a : Nat) (v : Byte) : Memory :=
  match m with
  | [] => Memory.consCell a v []
  | (b, w) :: rest =>
    if a < b then Memory.consCell a v ((b, w) :: rest)
    else if a = b then Memory.consCell a v rest
    else (b, w) :: Memory.write rest a v

/-- Bytes written at rising addresses from `a`. -/
def Memory.writeBytes (m : Memory) (a : Nat) (bytes : List Byte) : Memory :=
  match bytes with
  | [] => m
  | v :: rest => Memory.writeBytes (Memory.write m a v) (a + 1) rest

/-- `n` bytes read at rising addresses from `a`. -/
def Memory.readBytes (m : Memory) (a n : Nat) : List Byte := (List.range n).map fun i => Memory.read m (a + i)

/-- `MemRead(addr, n)`, defined for `addr + n ≤ 64` only (R10, R60). -/
def memRead (addr n : Nat) (s : State) : Except Fault (List Byte) :=
  if addr + n ≤ 64 then .ok (s.buf.readBytes addr n) else .error .bufferBounds

/-- `MemWrite(addr, n, v)`, defined for `addr + n ≤ 64` only (R10, R60). -/
def memWrite (addr : Nat) (bytes : List Byte) (s : State) : Except Fault State :=
  if addr + bytes.length ≤ 64 then .ok (s.setBuf (s.buf.writeBytes addr bytes)) else .error .bufferBounds

/-- Taking a fault: CAUSE takes the code if FAULT was 0, FAULT is set, nothing else is written (R196, R197). -/
def raiseFault (c : Cause) (s : State) : State := s.setRecord true (if s.fault then s.cause else c)

/-- 64 free bytes of BUF (R156, R35). -/
@[irreducible]
def freeBuffer (s : State) : Memory := Memory.writeBytes [] 0 ((List.range 64).map (Config.freeByte s))

/-- Four free words, numbered from `i`. -/
def freeQuad (s : State) (i : Nat) : Quad :=
  ⟨Config.freeWord s i, Config.freeWord s (i + 1), Config.freeWord s (i + 2), Config.freeWord s (i + 3)⟩

/-- The context is spent: after FINAL the values of CNT, LEN and BUF are unspecified (R156, D12, U5), so each is a
free value; CNT stays in its legal range (R27, R30). H, PHASE and the fault record are not touched (log entry 6). -/
def spendContext (s : State) : State :=
  { s with
    cnt := (Config.freeCount s).setWidth 7
    len := Config.freeLength s
    buf := freeBuffer s
    draws := s.draws + 1 }

/-- The hardware reset as an event in a run (R220): PHASE, FAULT and CAUSE are cleared, a COMPRESS in progress is
abandoned, every register that R35 leaves unspecified is a free value (log entry 9). -/
def hardwareReset (s : State) : State :=
  { s with
    phase := .idle, fault := false, cause := .none
    h := freeQuad s 0, work := freeQuad s 4, stateOut := quadBits (freeQuad s 8)
    cnt := Config.freeSeven s 0, t := Config.freeSeven s 1
    len := Config.freeLength s, buf := freeBuffer s
    agent := .ctl, draws := s.draws + 1 }

end Sys2Proof.Machine
end

