-- ==== Sys2Proof/Machine/Flags.lean ====
section
/-! DEFINITION. The fault checks of a command (spec/41_controller.md R150, spec/60_exceptions.md R191 to R195, R198)
and the output ports (spec/10_state.md R34). There are no condition codes: no operation sets a carry, zero, sign or
overflow flag (R25, R127). -/

namespace Sys2Proof.Machine

/-- The fault that UPDATE of one byte or more, or FINAL, takes in a state, if any: PHASE is looked at before
CNT (R192, R193, R195). -/
def faultCheck (s : State) : Option Cause :=
  if s.phase ≠ .active then some .seqFault
  else if 64 ≤ s.cnt.toNat then some .cntFault
  else none

/-- A command that can fault: the checks first, then the command's pseudocode (R150). -/
def guarded (body : State → Except Fault State) (s : State) : Host.Outcome State Fault Refusal :=
  match faultCheck s with
  | some c => .next (raiseFault c s)
  | none =>
    match body s with
    | .ok s' => .next s'
    | .error r => .fault r

/-- Port `phase` (R34). -/
def phasePort (s : State) : BitVec 2 := s.phase.bits

/-- Port `digest_valid`: 1 in phase DONE (R34). -/
def digestValid (s : State) : Bool := s.phase == .done

/-- Port `digest`: `H` in phase DONE (R34, R158), unspecified otherwise (log entry 10). -/
def digestPort (s : State) : QuadPort := if digestValid s then quadBits s.h else Config.freeDigest s

/-- Byte `k` of the digest port (R34). -/
def digestByte (s : State) (k : Nat) : Byte := (digestPort s).extractLsb' (8 * k) 8

/-- The sixteen bytes of the digest port, byte 0 first (R34). -/
def digestBytes (s : State) : List Byte := (List.range 16).map (digestByte s)

/-- Port `fault` (R34). -/
def faultPort (s : State) : BitVec 1 := BitVec.ofBool s.fault

/-- Port `cause` (R34). -/
def causePort (s : State) : BitVec 2 := s.cause.bits

end Sys2Proof.Machine
end

