-- ==== Sys2Proof/Machine/Tables.lean ====
section
/-! DEFINITION. The constant tables K, S and G and the four mixing functions of CMP
(spec/40_compressor.md R115 to R118). The spec marks their contents as supplied from general knowledge, not from its
source (PRESUMED: log entry 15); the tables stand in this one place. -/

namespace Sys2Proof.Machine

/-- Round constants of round 0 (R116, table T1). -/
def kRound0 : List Word :=
  [0xd76aa478, 0xe8c7b756, 0x242070db, 0xc1bdceee, 0xf57c0faf, 0x4787c62a, 0xa8304613, 0xfd469501,
   0x698098d8, 0x8b44f7af, 0xffff5bb1, 0x895cd7be, 0x6b901122, 0xfd987193, 0xa679438e, 0x49b40821]

/-- Round constants of round 1 (R116, table T1). -/
def kRound1 : List Word :=
  [0xf61e2562, 0xc040b340, 0x265e5a51, 0xe9b6c7aa, 0xd62f105d, 0x02441453, 0xd8a1e681, 0xe7d3fbc8,
   0x21e1cde6, 0xc33707d6, 0xf4d50d87, 0x455a14ed, 0xa9e3e905, 0xfcefa3f8, 0x676f02d9, 0x8d2a4c8a]

/-- Round constants of round 2 (R116, table T1). -/
def kRound2 : List Word :=
  [0xfffa3942, 0x8771f681, 0x6d9d6122, 0xfde5380c, 0xa4beea44, 0x4bdecfa9, 0xf6bb4b60, 0xbebfbc70,
   0x289b7ec6, 0xeaa127fa, 0xd4ef3085, 0x04881d05, 0xd9d4d039, 0xe6db99e5, 0x1fa27cf8, 0xc4ac5665]

/-- Round constants of round 3 (R116, table T1). -/
def kRound3 : List Word :=
  [0xf4292244, 0x432aff97, 0xab9423a7, 0xfc93a039, 0x655b59c3, 0x8f0ccc92, 0xffeff47d, 0x85845dd1,
   0x6fa87e4f, 0xfe2ce6e0, 0xa3014314, 0x4e0811a1, 0xf7537e82, 0xbd3af235, 0x2ad7d2bb, 0xeb86d391]

/-- The round of a step, `T[5:4]` (R86). -/
def stepRound (t : BitVec 6) : BitVec 2 := t.extractLsb' 4 2

/-- `K[t]` (R116). -/
def roundConst (t : BitVec 6) : Word := (kRound0 ++ kRound1 ++ kRound2 ++ kRound3).getD t.toNat 0

/-- The four shift amounts of a round, for `t mod 4` = 0, 1, 2, 3 (R117). -/
def roundShifts (round : BitVec 2) : List Nat :=
  match round.toNat with
  | 0 => [7, 12, 17, 22]
  | 1 => [5, 9, 14, 20]
  | 2 => [4, 11, 16, 23]
  | _ => [6, 10, 15, 21]

/-- `S[t]` (R117). -/
def shiftAmount (t : BitVec 6) : Nat := (roundShifts (stepRound t)).getD (t.toNat % 4) 0

/-- `G(t)`, which message word the step adds (R118). -/
def wordIndex (t : BitVec 6) : Nat :=
  match (stepRound t).toNat with
  | 0 => t.toNat % 16
  | 1 => (5 * t.toNat + 1) % 16
  | 2 => (3 * t.toNat + 5) % 16
  | _ => (7 * t.toNat) % 16

/-- `F`, round 0: where a bit of `b` is 1 the bit of `c`, else the bit of `d` (R115, R122; the selection
and not a majority, 90_conflicts.md C1). -/
def mixF (b c d : Word) : Word := or32 (and32 b c) (and32 (not32 b) d)

/-- `G2`, round 1: where a bit of `d` is 1 the bit of `b`, else the bit of `c` (R115, R123). -/
def mixG (b c d : Word) : Word := or32 (and32 b d) (and32 c (not32 d))

/-- `Hx`, round 2: parity (R115, R124). -/
def mixH (b c d : Word) : Word := xor32 (xor32 b c) d

/-- `I`, round 3 (R115, R125). -/
def mixI (b c d : Word) : Word := xor32 c (or32 b (not32 d))

/-- `Mix(round, b, c, d)` (R115). -/
def mix (round : BitVec 2) (b c d : Word) : Word :=
  match round.toNat with
  | 0 => mixF b c d
  | 1 => mixG b c d
  | 2 => mixH b c d
  | _ => mixI b c d

end Sys2Proof.Machine
end

