-- ==== Sys2Proof/Machine/Compressor.lean ====
section
/-! DEFINITION. The block compressor CMP: the function Compress, the operation COMPRESS on the machine, and its 64
steps (spec/40_compressor.md R110 to R125). -/

namespace Sys2Proof.Machine

/-- One step of kind `f`, with its message word, round constant and shift amount (R113, R114). -/
def stepQuad (f : Word → Word → Word → Word) (m k : Word) (r : Nat) (q : Quad) : Quad :=
  let x := add32 (add32 (add32 q.a (f q.b q.c q.d)) m) k
  ⟨q.d, add32 q.b (rotl32 x r), q.b, q.c⟩

/-- Step `t` of kind `f` on a block, with the row of `t` in table T1 (R113, R116 to R118). -/
def kindStep (f : Word → Word → Word → Word) (blk : Block) (t : BitVec 6) (q : Quad) : Quad :=
  stepQuad f (messageWord blk (wordIndex t)) (roundConst t) (shiftAmount t) q

/-- Step `t`, its kind chosen by its round (R113, R115). -/
def roundStep (blk : Block) (t : BitVec 6) (q : Quad) : Quad := kindStep (mix (stepRound t)) blk t q

/-- The indices of the 64 steps, ascending (R23). -/
def stepIndices : List (BitVec 6) := (List.range 64).map (BitVec.ofNat 6)

/-- The working registers after all 64 steps, from what they were loaded with (R112, R113). -/
@[irreducible]
def runAllSteps (q : Quad) (blk : Block) : Quad := stepIndices.foldl (fun q t => roundStep blk t q) q

/-- The feed-forward: the working registers added to the input state, word by word (R119). -/
def feedForward (h w : Quad) : Quad := ⟨add32 h.a w.a, add32 h.b w.b, add32 h.c w.c, add32 h.d w.d⟩

/-- `Compress(h, blk)` (R110). -/
def compress (h : Quad) (blk : Block) : Quad := feedForward h (runAllSteps h blk)

/-- The step index after a step. -/
def nextIndex (t : BitVec 6) : BitVec 7 := BitVec.ofNat 7 (t.toNat + 1)

/-- The step that T selects: its six low bits (R86). -/
def selectedIndex (s : State) : BitVec 6 := s.t.extractLsb' 0 6

/-- One step of kind `f` on the machine: the working registers and T (R113). -/
def machineStep (f : Word → Word → Word → Word) (t : BitVec 6) (s : State) : State :=
  { s with work := kindStep f s.blockIn t s.work, t := nextIndex t }

/-- A COMPRESS begins: operands on the ports, working registers loaded with the four words of state_in, T at 0 (R95, R111, R112). -/
def beginCompress (p : QuadPort) (blk : Block) (s : State) : State :=
  { s with stateIn := p, blockIn := blk, work := quadOfBits p, t := 0, agent := .cmp }

/-- The 64 steps of a COMPRESS, `while T < 64 do step(T)`: the working registers after all of them, T at 64 (R110,
R23). The same steps taken one at a time are the rows FF00 to II63 below. -/
def finishSteps (s : State) : State := { s with work := runAllSteps s.work s.blockIn, t := 64 }

/-- A COMPRESS ends: the feed-forward to the result port (R95, R119). The working registers hold no defined value between
two COMPRESS operations (R22), so they become free words (log entry 8); T stays at the value it counted to (R23). -/
def endCompress (s : State) : State :=
  { s with
    stateOut := quadBits (feedForward (quadOfBits s.stateIn) s.work)
    agent := .ctl
    work := freeQuad s 0
    draws := s.draws + 1 }

/-- COMPRESS on the machine, whole (R110, R120). -/
def runCompress (p : QuadPort) (blk : Block) (s : State) : State := endCompress (finishSteps (beginCompress p blk s))

/-- `H <- Compress(H, blk)`: CTL drives the ports of CMP from H and a block and stores the result into H
(R95, R110, R119). -/
@[irreducible]
def compressHash (bytes : List Byte) (s : State) : State :=
  let s' := runCompress (quadBits s.h) (blockOfBytes bytes) s
  s'.setH (quadOfBits s'.stateOut)

/-- COMPRESS, stand-alone: the operands and the result are on the ports of CMP, and CTL takes no part
(R95, R110, R120). -/
def execCompress (s : State) : Host.Outcome State Fault Refusal := .next (runCompress s.stateIn s.blockIn s)

/-- A step of round 0 (R122). -/
def stepFF (t : BitVec 6) (s : State) : Host.Outcome State Fault Refusal := .next (machineStep mixF t s)

/-- A step of round 1 (R123). -/
def stepGG (t : BitVec 6) (s : State) : Host.Outcome State Fault Refusal := .next (machineStep mixG t s)

/-- A step of round 2 (R124). -/
def stepHH (t : BitVec 6) (s : State) : Host.Outcome State Fault Refusal := .next (machineStep mixH t s)

/-- A step of round 3 (R125). -/
def stepII (t : BitVec 6) (s : State) : Host.Outcome State Fault Refusal := .next (machineStep mixI t s)

/-- FF00 (R122). -/
def execFF00 (s : State) : Host.Outcome State Fault Refusal := stepFF 0 s

/-- FF01 (R122). -/
def execFF01 (s : State) : Host.Outcome State Fault Refusal := stepFF 1 s

/-- FF02 (R122). -/
def execFF02 (s : State) : Host.Outcome State Fault Refusal := stepFF 2 s

/-- FF03 (R122). -/
def execFF03 (s : State) : Host.Outcome State Fault Refusal := stepFF 3 s

/-- FF04 (R122). -/
def execFF04 (s : State) : Host.Outcome State Fault Refusal := stepFF 4 s

/-- FF05 (R122). -/
def execFF05 (s : State) : Host.Outcome State Fault Refusal := stepFF 5 s

/-- FF06 (R122). -/
def execFF06 (s : State) : Host.Outcome State Fault Refusal := stepFF 6 s

/-- FF07 (R122). -/
def execFF07 (s : State) : Host.Outcome State Fault Refusal := stepFF 7 s

/-- FF08 (R122). -/
def execFF08 (s : State) : Host.Outcome State Fault Refusal := stepFF 8 s

/-- FF09 (R122). -/
def execFF09 (s : State) : Host.Outcome State Fault Refusal := stepFF 9 s

/-- FF10 (R122). -/
def execFF10 (s : State) : Host.Outcome State Fault Refusal := stepFF 10 s

/-- FF11 (R122). -/
def execFF11 (s : State) : Host.Outcome State Fault Refusal := stepFF 11 s

/-- FF12 (R122). -/
def execFF12 (s : State) : Host.Outcome State Fault Refusal := stepFF 12 s

/-- FF13 (R122). -/
def execFF13 (s : State) : Host.Outcome State Fault Refusal := stepFF 13 s

/-- FF14 (R122). -/
def execFF14 (s : State) : Host.Outcome State Fault Refusal := stepFF 14 s

/-- FF15 (R122). -/
def execFF15 (s : State) : Host.Outcome State Fault Refusal := stepFF 15 s

/-- GG16 (R123). -/
def execGG16 (s : State) : Host.Outcome State Fault Refusal := stepGG 16 s

/-- GG17 (R123). -/
def execGG17 (s : State) : Host.Outcome State Fault Refusal := stepGG 17 s

/-- GG18 (R123). -/
def execGG18 (s : State) : Host.Outcome State Fault Refusal := stepGG 18 s

/-- GG19 (R123). -/
def execGG19 (s : State) : Host.Outcome State Fault Refusal := stepGG 19 s

/-- GG20 (R123). -/
def execGG20 (s : State) : Host.Outcome State Fault Refusal := stepGG 20 s

/-- GG21 (R123). -/
def execGG21 (s : State) : Host.Outcome State Fault Refusal := stepGG 21 s

/-- GG22 (R123). -/
def execGG22 (s : State) : Host.Outcome State Fault Refusal := stepGG 22 s

/-- GG23 (R123). -/
def execGG23 (s : State) : Host.Outcome State Fault Refusal := stepGG 23 s

/-- GG24 (R123). -/
def execGG24 (s : State) : Host.Outcome State Fault Refusal := stepGG 24 s

/-- GG25 (R123). -/
def execGG25 (s : State) : Host.Outcome State Fault Refusal := stepGG 25 s

/-- GG26 (R123). -/
def execGG26 (s : State) : Host.Outcome State Fault Refusal := stepGG 26 s

/-- GG27 (R123). -/
def execGG27 (s : State) : Host.Outcome State Fault Refusal := stepGG 27 s

/-- GG28 (R123). -/
def execGG28 (s : State) : Host.Outcome State Fault Refusal := stepGG 28 s

/-- GG29 (R123). -/
def execGG29 (s : State) : Host.Outcome State Fault Refusal := stepGG 29 s

/-- GG30 (R123). -/
def execGG30 (s : State) : Host.Outcome State Fault Refusal := stepGG 30 s

/-- GG31 (R123). -/
def execGG31 (s : State) : Host.Outcome State Fault Refusal := stepGG 31 s

/-- HH32 (R124). -/
def execHH32 (s : State) : Host.Outcome State Fault Refusal := stepHH 32 s

/-- HH33 (R124). -/
def execHH33 (s : State) : Host.Outcome State Fault Refusal := stepHH 33 s

/-- HH34 (R124). -/
def execHH34 (s : State) : Host.Outcome State Fault Refusal := stepHH 34 s

/-- HH35 (R124). -/
def execHH35 (s : State) : Host.Outcome State Fault Refusal := stepHH 35 s

/-- HH36 (R124). -/
def execHH36 (s : State) : Host.Outcome State Fault Refusal := stepHH 36 s

/-- HH37 (R124). -/
def execHH37 (s : State) : Host.Outcome State Fault Refusal := stepHH 37 s

/-- HH38 (R124). -/
def execHH38 (s : State) : Host.Outcome State Fault Refusal := stepHH 38 s

/-- HH39 (R124). -/
def execHH39 (s : State) : Host.Outcome State Fault Refusal := stepHH 39 s

/-- HH40 (R124). -/
def execHH40 (s : State) : Host.Outcome State Fault Refusal := stepHH 40 s

/-- HH41 (R124). -/
def execHH41 (s : State) : Host.Outcome State Fault Refusal := stepHH 41 s

/-- HH42 (R124). -/
def execHH42 (s : State) : Host.Outcome State Fault Refusal := stepHH 42 s

/-- HH43 (R124). -/
def execHH43 (s : State) : Host.Outcome State Fault Refusal := stepHH 43 s

/-- HH44 (R124). -/
def execHH44 (s : State) : Host.Outcome State Fault Refusal := stepHH 44 s

/-- HH45 (R124). -/
def execHH45 (s : State) : Host.Outcome State Fault Refusal := stepHH 45 s

/-- HH46 (R124). -/
def execHH46 (s : State) : Host.Outcome State Fault Refusal := stepHH 46 s

/-- HH47 (R124). -/
def execHH47 (s : State) : Host.Outcome State Fault Refusal := stepHH 47 s

/-- II48 (R125). -/
def execII48 (s : State) : Host.Outcome State Fault Refusal := stepII 48 s

/-- II49 (R125). -/
def execII49 (s : State) : Host.Outcome State Fault Refusal := stepII 49 s

/-- II50 (R125). -/
def execII50 (s : State) : Host.Outcome State Fault Refusal := stepII 50 s

/-- II51 (R125). -/
def execII51 (s : State) : Host.Outcome State Fault Refusal := stepII 51 s

/-- II52 (R125). -/
def execII52 (s : State) : Host.Outcome State Fault Refusal := stepII 52 s

/-- II53 (R125). -/
def execII53 (s : State) : Host.Outcome State Fault Refusal := stepII 53 s

/-- II54 (R125). -/
def execII54 (s : State) : Host.Outcome State Fault Refusal := stepII 54 s

/-- II55 (R125). -/
def execII55 (s : State) : Host.Outcome State Fault Refusal := stepII 55 s

/-- II56 (R125). -/
def execII56 (s : State) : Host.Outcome State Fault Refusal := stepII 56 s

/-- II57 (R125). -/
def execII57 (s : State) : Host.Outcome State Fault Refusal := stepII 57 s

/-- II58 (R125). -/
def execII58 (s : State) : Host.Outcome State Fault Refusal := stepII 58 s

/-- II59 (R125). -/
def execII59 (s : State) : Host.Outcome State Fault Refusal := stepII 59 s

/-- II60 (R125). -/
def execII60 (s : State) : Host.Outcome State Fault Refusal := stepII 60 s

/-- II61 (R125). -/
def execII61 (s : State) : Host.Outcome State Fault Refusal := stepII 61 s

/-- II62 (R125). -/
def execII62 (s : State) : Host.Outcome State Fault Refusal := stepII 62 s

/-- II63 (R125). -/
def execII63 (s : State) : Host.Outcome State Fault Refusal := stepII 63 s

end Sys2Proof.Machine
end

