-- ==== Sys2Proof/Machine/Controller.lean ====
section
/-! DEFINITION. The streaming controller CTL: NOP, INIT, UPDATE, FINAL (spec/41_controller.md R150 to R156). -/

namespace Sys2Proof.Machine

/-- NOP: no state changes, in any phase (R151). -/
def execNop (s : State) : Host.Outcome State Fault Refusal := .next s

/-- INIT: H, LEN, CNT and PHASE are set, in any phase; BUF, FAULT and CAUSE are not touched (R152). -/
def execInit (s : State) : Host.Outcome State Fault Refusal :=
  .next ((((s.setH initialHash).setLen 0).setCnt 0).setPhase .active)

/-- The buffer holds 64 bytes: they are compressed and CNT returns to 0 (R27, R153). -/
def flushBuffer (s : State) : Except Fault State := do
  let blk ← memRead 0 64 s
  return (compressHash blk s).setCnt 0

/-- Step 2 of UPDATE: a pending partial block is topped up to 64 bytes first and, if that completes it, is
compressed at once. The answer holds the bytes not consumed (R153). -/
def topUp (data : List Byte) (s : State) : Except Fault (State × List Byte) :=
  if 0 < s.cnt.toNat then do
    let k := min (64 - s.cnt.toNat) data.length
    let s1 ← memWrite s.cnt.toNat (data.take k) s
    let s2 := s1.setCnt (s1.cnt + BitVec.ofNat 7 k)
    let s3 ← if s2.cnt.toNat = 64 then flushBuffer s2 else .ok s2
    return (s3, data.drop k)
  else .ok (s, data)

/-- Step 3 of UPDATE: complete blocks compressed one after another, in stream order (R153, R62). -/
def compressBlocks (blocks : List (List Byte)) (s : State) : State := blocks.foldl (fun s b => compressHash b s) s

/-- Step 4 of UPDATE: the bytes left over go into the buffer from index 0 (R153). -/
def keepLeftover (data : List Byte) (s : State) : Except Fault State :=
  if 0 < data.length then do
    let s1 ← memWrite 0 data s
    return s1.setCnt (BitVec.ofNat 7 data.length)
  else .ok s

/-- The pseudocode of UPDATE, its four steps in order (R153): step 3 takes every complete block of what step 2 left,
straight from the payload, and step 4 keeps the rest. -/
def updateBody (data : List Byte) (s : State) : Except Fault State := do
  let s1 := s.setLen (add64 s.len (bitCount data.length))
  let (s2, rest) ← topUp data s1
  let n := rest.length / 64
  keepLeftover (rest.drop (64 * n)) (compressBlocks (splitBlocks n rest) s2)

/-- UPDATE(data): nothing for the empty payload, in any phase (R198); otherwise the checks, then the pseudocode
(R153). -/
def execUpdate (data : List Byte) (s : State) : Host.Outcome State Fault Refusal :=
  if data.isEmpty then .next s else guarded (updateBody data) s

/-- The marker of FINAL and, if fewer than 8 bytes remain after it, the zeroing of the rest of the block and its
compression. The answer holds how many bytes of the block are used (R156). -/
def markTail (s : State) : Except Fault (State × Nat) := do
  let s1 ← memWrite s.cnt.toNat [markerByte] s
  let p := s.cnt.toNat + 1
  if 64 - p < 8 then do
    let s2 ← memWrite p (zeroBytes (64 - p)) s1
    let blk ← memRead 0 64 s2
    return (compressHash blk s2, 0)
  else return (s1, p)

/-- The last block of FINAL filled from byte `p`: zeros up to byte 55, then the bit length (R156, R53). -/
def fillLastBlock (p : Nat) (s : State) : Except Fault State := do
  let s1 ← memWrite p (zeroBytes (56 - p)) s
  memWrite 56 (le64 s1.len) s1

/-- The pseudocode of FINAL (R156). After it the context is spent. -/
def finalBody (s : State) : Except Fault State := do
  let (s1, p) ← markTail s
  let s2 ← fillLastBlock p s1
  let blk ← memRead 0 64 s2
  return spendContext ((compressHash blk s2).setPhase .done)

/-- FINAL: the checks, then the pseudocode (R156). -/
def execFinal (s : State) : Host.Outcome State Fault Refusal := guarded finalBody s

end Sys2Proof.Machine
end

