-- ==== Sys2Proof/Machine/Dispatch.lean ====
section
/-! DEFINITION. One arm per constructor of Instr, each a direct call of its meaning. -/

namespace Sys2Proof.Machine

/-- The meaning of every instruction. -/
def exec (i : Instr) (s : State) : Host.Outcome State Fault Refusal :=
  match i with
  | .nop => Sys2Proof.Machine.execNop s
  | .init => Sys2Proof.Machine.execInit s
  | .update data => Sys2Proof.Machine.execUpdate data s
  | .final => Sys2Proof.Machine.execFinal s
  | .compress => Sys2Proof.Machine.execCompress s
  | .ff00 => Sys2Proof.Machine.execFF00 s
  | .ff01 => Sys2Proof.Machine.execFF01 s
  | .ff02 => Sys2Proof.Machine.execFF02 s
  | .ff03 => Sys2Proof.Machine.execFF03 s
  | .ff04 => Sys2Proof.Machine.execFF04 s
  | .ff05 => Sys2Proof.Machine.execFF05 s
  | .ff06 => Sys2Proof.Machine.execFF06 s
  | .ff07 => Sys2Proof.Machine.execFF07 s
  | .ff08 => Sys2Proof.Machine.execFF08 s
  | .ff09 => Sys2Proof.Machine.execFF09 s
  | .ff10 => Sys2Proof.Machine.execFF10 s
  | .ff11 => Sys2Proof.Machine.execFF11 s
  | .ff12 => Sys2Proof.Machine.execFF12 s
  | .ff13 => Sys2Proof.Machine.execFF13 s
  | .ff14 => Sys2Proof.Machine.execFF14 s
  | .ff15 => Sys2Proof.Machine.execFF15 s
  | .gg16 => Sys2Proof.Machine.execGG16 s
  | .gg17 => Sys2Proof.Machine.execGG17 s
  | .gg18 => Sys2Proof.Machine.execGG18 s
  | .gg19 => Sys2Proof.Machine.execGG19 s
  | .gg20 => Sys2Proof.Machine.execGG20 s
  | .gg21 => Sys2Proof.Machine.execGG21 s
  | .gg22 => Sys2Proof.Machine.execGG22 s
  | .gg23 => Sys2Proof.Machine.execGG23 s
  | .gg24 => Sys2Proof.Machine.execGG24 s
  | .gg25 => Sys2Proof.Machine.execGG25 s
  | .gg26 => Sys2Proof.Machine.execGG26 s
  | .gg27 => Sys2Proof.Machine.execGG27 s
  | .gg28 => Sys2Proof.Machine.execGG28 s
  | .gg29 => Sys2Proof.Machine.execGG29 s
  | .gg30 => Sys2Proof.Machine.execGG30 s
  | .gg31 => Sys2Proof.Machine.execGG31 s
  | .hh32 => Sys2Proof.Machine.execHH32 s
  | .hh33 => Sys2Proof.Machine.execHH33 s
  | .hh34 => Sys2Proof.Machine.execHH34 s
  | .hh35 => Sys2Proof.Machine.execHH35 s
  | .hh36 => Sys2Proof.Machine.execHH36 s
  | .hh37 => Sys2Proof.Machine.execHH37 s
  | .hh38 => Sys2Proof.Machine.execHH38 s
  | .hh39 => Sys2Proof.Machine.execHH39 s
  | .hh40 => Sys2Proof.Machine.execHH40 s
  | .hh41 => Sys2Proof.Machine.execHH41 s
  | .hh42 => Sys2Proof.Machine.execHH42 s
  | .hh43 => Sys2Proof.Machine.execHH43 s
  | .hh44 => Sys2Proof.Machine.execHH44 s
  | .hh45 => Sys2Proof.Machine.execHH45 s
  | .hh46 => Sys2Proof.Machine.execHH46 s
  | .hh47 => Sys2Proof.Machine.execHH47 s
  | .ii48 => Sys2Proof.Machine.execII48 s
  | .ii49 => Sys2Proof.Machine.execII49 s
  | .ii50 => Sys2Proof.Machine.execII50 s
  | .ii51 => Sys2Proof.Machine.execII51 s
  | .ii52 => Sys2Proof.Machine.execII52 s
  | .ii53 => Sys2Proof.Machine.execII53 s
  | .ii54 => Sys2Proof.Machine.execII54 s
  | .ii55 => Sys2Proof.Machine.execII55 s
  | .ii56 => Sys2Proof.Machine.execII56 s
  | .ii57 => Sys2Proof.Machine.execII57 s
  | .ii58 => Sys2Proof.Machine.execII58 s
  | .ii59 => Sys2Proof.Machine.execII59 s
  | .ii60 => Sys2Proof.Machine.execII60 s
  | .ii61 => Sys2Proof.Machine.execII61 s
  | .ii62 => Sys2Proof.Machine.execII62 s
  | .ii63 => Sys2Proof.Machine.execII63 s

end Sys2Proof.Machine
end

