-- ==== Sys2Proof/WellFormed.lean ====
section
/-! DEFINITION. Which instructions are written by exactly one word of their format (spec/30_encoding.md
R82, R85, R86): every instruction but an UPDATE whose payload is not exactly one byte. A transaction UPDATE of
any length is a legal command all the same (R81); it is sent as a run of words (R85). -/

namespace Sys2Proof

/-- The payload check of the beat level: one beat carries exactly one byte (R82, R85). -/
def payloadFitsOneBeat (data : List Byte) : Bool := data.length == 1

/-- An instruction that one word of its format writes. -/
def Instr.wellFormed (i : Instr) : Bool :=
  match i with
  | .update data => payloadFitsOneBeat data
  | .nop => true
  | .init => true
  | .final => true
  | .compress => true
  | .ff00 | .ff01 | .ff02 | .ff03 | .ff04 | .ff05 | .ff06 | .ff07 => true
  | .ff08 | .ff09 | .ff10 | .ff11 | .ff12 | .ff13 | .ff14 | .ff15 => true
  | .gg16 | .gg17 | .gg18 | .gg19 | .gg20 | .gg21 | .gg22 | .gg23 => true
  | .gg24 | .gg25 | .gg26 | .gg27 | .gg28 | .gg29 | .gg30 | .gg31 => true
  | .hh32 | .hh33 | .hh34 | .hh35 | .hh36 | .hh37 | .hh38 | .hh39 => true
  | .hh40 | .hh41 | .hh42 | .hh43 | .hh44 | .hh45 | .hh46 | .hh47 => true
  | .ii48 | .ii49 | .ii50 | .ii51 | .ii52 | .ii53 | .ii54 | .ii55 => true
  | .ii56 | .ii57 | .ii58 | .ii59 | .ii60 | .ii61 | .ii62 | .ii63 => true

end Sys2Proof
end

