-- ==== Sys2Proof/Decode.lean ====
section
/-! DEFINITION. Decoding, total on any bits and refusing by name, and the encoder, both from the tables of
spec/30_encoding.md (R82, R83, R85, R86, R90, R91) and spec/opcode_table.json. -/

namespace Sys2Proof

/-- The opcode field `cw[9:8]` of a beat (R82). -/
def beatOp (cw : BitVec 10) : BitVec 2 := cw.extractLsb' 8 2

/-- The data field `cw[7:0]` of a beat (R82). -/
def beatData (cw : BitVec 10) : Byte := cw.extractLsb' 0 8

/-- A beat, decoded (R83). All four opcodes are assigned, so no beat is refused (R90); the data field is
read for UPDATE alone (R91), whose payload is that one byte (R85). -/
def decodeBeat (cw : BitVec 10) : Instr :=
  match (beatOp cw).toNat with
  | 0 => .nop
  | 1 => .init
  | 2 => .update [beatData cw]
  | _ => .final

/-- The steps of round 0 in ascending order (R122). -/
def ffSteps : List Instr :=
  [.ff00, .ff01, .ff02, .ff03, .ff04, .ff05, .ff06, .ff07,
   .ff08, .ff09, .ff10, .ff11, .ff12, .ff13, .ff14, .ff15]

/-- The steps of round 1 in ascending order (R123). -/
def ggSteps : List Instr :=
  [.gg16, .gg17, .gg18, .gg19, .gg20, .gg21, .gg22, .gg23,
   .gg24, .gg25, .gg26, .gg27, .gg28, .gg29, .gg30, .gg31]

/-- The steps of round 2 in ascending order (R124). -/
def hhSteps : List Instr :=
  [.hh32, .hh33, .hh34, .hh35, .hh36, .hh37, .hh38, .hh39,
   .hh40, .hh41, .hh42, .hh43, .hh44, .hh45, .hh46, .hh47]

/-- The steps of round 3 in ascending order (R125). -/
def iiSteps : List Instr :=
  [.ii48, .ii49, .ii50, .ii51, .ii52, .ii53, .ii54, .ii55,
   .ii56, .ii57, .ii58, .ii59, .ii60, .ii61, .ii62, .ii63]

/-- All 64 steps, in the order of their index. -/
def allSteps : List Instr := ffSteps ++ ggSteps ++ hhSteps ++ iiSteps

/-- The step that the six low bits of T select (R86). The list has 64 entries, so its last one stands for
no index but 63. -/
def decodeStep (t : BitVec 6) : Instr := allSteps.getD t.toNat .ii63

/-- One word of any format, decoded. -/
def decodeCode (c : Code) : Instr :=
  match c with
  | .beat cw => decodeBeat cw
  | .step t => decodeStep t
  | .func => .compress

/-- Any number read as a word of a format. -/
def codeOfBits (f : Format) (w : Nat) : Except DecodeError Code :=
  match f with
  | .cmd => if w < 2 ^ 10 then .ok (.beat (BitVec.ofNat 10 w)) else .error (.beatTooWide w)
  | .step => if w < 2 ^ 6 then .ok (.step (BitVec.ofNat 6 w)) else .error (.stepTooWide w)
  | .func => if w = 0 then .ok .func else .error (.funcHasNoBits w)

/-- Any number decoded as a word of a format, refused by name where it is too wide for it. -/
def decodeBits (f : Format) (w : Nat) : Except DecodeError Instr :=
  match codeOfBits f w with
  | .ok c => .ok (decodeCode c)
  | .error e => .error e

/-- The beat of UPDATE for one payload byte: `0x200 + v` (R83). -/
def updateBeat (v : Byte) : BitVec 10 := 0x200#10 + v.setWidth 10

/-- The words that write an instruction: the canonical beats of R83, one beat per payload byte for UPDATE
(R85), the index of a step (R86), no bits for COMPRESS (R110). -/
def encode (i : Instr) : List Code :=
  match i with
  | .nop => [.beat 0x000]
  | .init => [.beat 0x100]
  | .update data => data.map fun v => .beat (updateBeat v)
  | .final => [.beat 0x300]
  | .compress => [.func]
  | .ff00 => [.step 0]
  | .ff01 => [.step 1]
  | .ff02 => [.step 2]
  | .ff03 => [.step 3]
  | .ff04 => [.step 4]
  | .ff05 => [.step 5]
  | .ff06 => [.step 6]
  | .ff07 => [.step 7]
  | .ff08 => [.step 8]
  | .ff09 => [.step 9]
  | .ff10 => [.step 10]
  | .ff11 => [.step 11]
  | .ff12 => [.step 12]
  | .ff13 => [.step 13]
  | .ff14 => [.step 14]
  | .ff15 => [.step 15]
  | .gg16 => [.step 16]
  | .gg17 => [.step 17]
  | .gg18 => [.step 18]
  | .gg19 => [.step 19]
  | .gg20 => [.step 20]
  | .gg21 => [.step 21]
  | .gg22 => [.step 22]
  | .gg23 => [.step 23]
  | .gg24 => [.step 24]
  | .gg25 => [.step 25]
  | .gg26 => [.step 26]
  | .gg27 => [.step 27]
  | .gg28 => [.step 28]
  | .gg29 => [.step 29]
  | .gg30 => [.step 30]
  | .gg31 => [.step 31]
  | .hh32 => [.step 32]
  | .hh33 => [.step 33]
  | .hh34 => [.step 34]
  | .hh35 => [.step 35]
  | .hh36 => [.step 36]
  | .hh37 => [.step 37]
  | .hh38 => [.step 38]
  | .hh39 => [.step 39]
  | .hh40 => [.step 40]
  | .hh41 => [.step 41]
  | .hh42 => [.step 42]
  | .hh43 => [.step 43]
  | .hh44 => [.step 44]
  | .hh45 => [.step 45]
  | .hh46 => [.step 46]
  | .hh47 => [.step 47]
  | .ii48 => [.step 48]
  | .ii49 => [.step 49]
  | .ii50 => [.step 50]
  | .ii51 => [.step 51]
  | .ii52 => [.step 52]
  | .ii53 => [.step 53]
  | .ii54 => [.step 54]
  | .ii55 => [.step 55]
  | .ii56 => [.step 56]
  | .ii57 => [.step 57]
  | .ii58 => [.step 58]
  | .ii59 => [.step 59]
  | .ii60 => [.step 60]
  | .ii61 => [.step 61]
  | .ii62 => [.step 62]
  | .ii63 => [.step 63]

/-- The words the table writes wider than they are: the reader of the table gave the rows FF08, FF09, FF12
and FF13 sixteen bits, the width of a beat (spec/98_reader.md; log entry 14). -/
def stepWordsShownAsBeats : List Nat := [8, 9, 12, 13]

/-- The format of a word, from how many bits the opcode table gives its row, in whole bytes: none for
COMPRESS, one byte for a step, two for a beat; three or four can only be a step whose row the table shows
wider than its six bits (DESIGN CHOICE, safe: log entry 14). -/
def tableFormat (nbits w : Nat) : Format :=
  if nbits = 0 then .func
  else if nbits ≤ 8 then .step
  else if nbits ≤ 16 then (if w ∈ stepWordsShownAsBeats then .step else .cmd)
  else .step

/-- The word of the opcode table that `nbits` and `w` name. -/
def tableCode (nbits w : Nat) : Except DecodeError Code := codeOfBits (tableFormat nbits w) w

/-- The instruction the decoder reads from a word of the opcode table. -/
def decodeTableWord (nbits w : Nat) : Option Instr :=
  match tableCode nbits w with
  | .ok c => some (decodeCode c)
  | .error _ => none

end Sys2Proof
end

