-- ==== Sys2Proof/Machine/Fetch.lean ====
section
/-! DEFINITION. Where the machine's next instruction comes from. It has no program counter (spec/10_state.md R23):
CTL takes what the host presents, one at a time and in order (spec/20_memory.md R61), and CMP, once begun, runs the step
that T selects until T is 64 (spec/10_state.md R23, spec/30_encoding.md R86). -/

namespace Sys2Proof.Machine

/-- What the host presents, taken by CTL. A beat and a transaction are a command each (R80, R82); a stand-alone
COMPRESS drives the ports first (R95); `start` and `reset` are no instructions. -/
def accept (ev : Event) (s : State) : Fetched :=
  match ev with
  | .beat cw => .run (decodeBeat cw) s
  | .update data => .run (.update data) s
  | .compress p blk => .run .compress (s.setPorts p blk)
  | .start p blk => .moved (beginCompress p blk s)
  | .reset => .moved (hardwareReset s)

/-- CMP in the middle of a COMPRESS: the step that T selects, or the feed-forward when the steps are over (R23). -/
def fetchStep (s : State) : Fetched :=
  if s.t.toNat < 64 then .run (decodeStep (selectedIndex s)) s else .moved (endCompress s)

/-- With nothing presented the hardware waits, which is the same as NOP (R151, R196). -/
def fetchCommand (s : State) : Fetched :=
  match s.input with
  | [] => .moved s
  | ev :: rest => accept ev (s.setInput rest)

/-- A reset comes before whatever is in progress (R220). -/
def resetPresented (s : State) : Bool := s.input.head? == some .reset

/-- The next thing the machine does. -/
def fetch (s : State) : Fetched :=
  if resetPresented s then fetchCommand s
  else
    match s.agent with
    | .ctl => fetchCommand s
    | .cmp => fetchStep s

/-- A word of the opcode table placed where `fetch` takes the next instruction: a beat in front of what the host
presents; a step as the index T of a COMPRESS in progress, with no reset presented before it; COMPRESS asked for on
the operands the ports carry (log entry 2). -/
def placeCode (c : Code) (s : State) : State :=
  match c with
  | .beat cw => (s.setInput (.beat cw :: s.input)).setAgent .ctl
  | .step t => ((s.setInput (s.input.dropWhile (· == .reset))).setT (t.setWidth 7)).setAgent .cmp
  | .func => (s.setInput (.compress s.stateIn s.blockIn :: s.input)).setAgent .ctl

/-- The same for the number of a table word; a number that is no word places nothing. -/
def placeTableWord (s : State) (nbits w : Nat) : State :=
  match tableCode nbits w with
  | .ok c => placeCode c s
  | .error _ => s

end Sys2Proof.Machine
end

