-- ==== Sys2Proof/Machine/Step.lean ====
section
/-! DEFINITION. One step of the machine: the next instruction, fetched and run, or the transition that is no
instruction. -/

namespace Sys2Proof.Machine

/-- One step (R61): deterministic, a command or one step of CMP at a time. -/
def step (s : State) : Host.Outcome State Fault Refusal :=
  match fetch s with
  | .run i s' => exec i s'
  | .moved s' => .next s'

/-- The state with a word of the opcode table as its very next instruction. -/
def State.withFetchWord (s : State) (nbits w : Nat) : State := placeTableWord s nbits w

end Sys2Proof.Machine
end

