-- ==== Sys2Proof/Machine/Tuned.lean ====
section
/-! DEFINITION. A tuned compressor, with the schedule that spec/40_compressor.md R132 gives as its example: the sum of
the register, the message word and the round constant of the next step is formed while the current step rotates. No
rule reads the parameter IMPL (R5); that the two compressors agree is stated, not assumed (R228; log entry 20). -/

namespace Sys2Proof.Machine

/-- The choice IMPL (R5, R132). -/
inductive Impl where
  | portable
  | tuned
deriving DecidableEq, Repr

/-- The working registers b, c, d between two steps, and the sum `a + M[G(t)] + K[t]` of the step to come. -/
structure TunedQuad where
  ready : Word
  b : Word
  c : Word
  d : Word
deriving DecidableEq, Repr

/-- The sum a step can form ahead of time from the register `a` it will find. -/
def readySum (blk : Block) (t : BitVec 6) (a : Word) : Word :=
  add32 (add32 a (messageWord blk (wordIndex t))) (roundConst t)

/-- Step `t` with its sum ready, forming the sum of step `t + 1` from the register that becomes `a`. -/
def tunedStep (blk : Block) (t : BitVec 6) (q : TunedQuad) : TunedQuad :=
  let x := add32 q.ready (mix (stepRound t) q.b q.c q.d)
  ⟨readySum blk (t + 1) q.d, add32 q.b (rotl32 x (shiftAmount t)), q.b, q.c⟩

/-- The last step, which prepares no sum. -/
def tunedLast (q : TunedQuad) (a : Word) : Quad :=
  let x := add32 q.ready (mix (stepRound 63) q.b q.c q.d)
  ⟨a, add32 q.b (rotl32 x (shiftAmount 63)), q.b, q.c⟩

/-- The tuned compressor: 63 overlapped steps, the last step, the feed-forward. -/
def compressTuned (h : Quad) (blk : Block) : Quad :=
  let q := (stepIndices.take 63).foldl (fun q t => tunedStep blk t q) ⟨readySum blk 0 h.a, h.b, h.c, h.d⟩
  feedForward h (tunedLast q q.d)

/-- Compress as either implementation computes it. -/
def compressBy (impl : Impl) (h : Quad) (blk : Block) : Quad :=
  match impl with
  | .portable => compress h blk
  | .tuned => compressTuned h blk

end Sys2Proof.Machine
end

