-- ==== Sys2Proof/Machine/Message.lean ====
section
/-! DEFINITION. Whole messages, as spec/41_controller.md R162 and spec/30_encoding.md R89 give them: the padding, the
fold of Compress over the blocks, the digest; and the running of commands in order (spec/20_memory.md R61). -/

namespace Sys2Proof.Machine

/-- How many zero bytes follow the marker after a tail of `n` bytes: `(55 - n) mod 64` (R89, R162). -/
def zeroPadding (n : Nat) : Nat := ((55 - (n : Int)) % 64).toNat

/-- A tail with its padding: the marker, the zero bytes, the bit length (R89). -/
def paddedTail (tail : List Byte) (bits : BitVec 64) : List Byte :=
  tail ++ [markerByte] ++ zeroBytes (zeroPadding tail.length) ++ le64 bits

/-- `pad(msg)` (R162). -/
def pad (msg : List Byte) : List Byte := paddedTail msg (bitCount msg.length)

/-- Compress folded over the first `n` blocks of 64 bytes (R31, R162). -/
def foldBlocks (n : Nat) (h : Quad) (bytes : List Byte) : Quad :=
  (splitBlocks n bytes).foldl (fun h b => compress h (blockOfBytes b)) h

/-- Compress folded over all complete blocks (R162). -/
def hashBlocks (h : Quad) (bytes : List Byte) : Quad := foldBlocks (bytes.length / 64) h bytes

/-- `MD5(msg)` (R162). -/
def md5 (msg : List Byte) : List Byte := serialise (hashBlocks initialHash (pad msg))

/-- The valid bytes of the pending buffer, `BUF[0..CNT-1]` (R28). -/
def validBytes (s : State) : List Byte := s.buf.readBytes 0 s.cnt.toNat

end Sys2Proof.Machine
end

