-- ==== Sys2Proof/Machine/Sequence.lean ====
section
/-! DEFINITION. Commands one after another: the state after a sequence is the fold of the command rules over it, left
to right (spec/20_memory.md R61). -/

namespace Sys2Proof.Machine

/-- The instructions in order, each run to completion before the next, up to the first that stops the machine. -/
def runCommands (is : List Instr) (s : State) : Host.Outcome State Fault Refusal :=
  match is with
  | [] => .next s
  | i :: rest =>
    match exec i s with
    | .next s' => runCommands rest s'
    | .fault r => .fault r
    | .refused r => .refused r

/-- The program of one message, its payload in any split (R162, R94). -/
def hashProgram (chunks : List (List Byte)) : List Instr := .init :: (chunks.map .update ++ [.final])

end Sys2Proof.Machine
end

