-- ==== Sys2Proof/Safety.lean ====
section
/-! DEFINITION. The invariants of the machine (spec/10_state.md R25, R27, R30, R31) and what a run within the source's
contract is (spec/60_exceptions.md R197). -/

namespace Sys2Proof.Machine

/-- Once the context has been initialised, CNT is below 64 at the start and at the end of every command
(R27, R30). -/
abbrev State.countInRange (s : State) : Prop := s.phase ≠ .idle → s.cnt.toNat < 64

/-- CAUSE is 0 while FAULT is 0, and holds a code while it is 1 (R25, R196). -/
abbrev State.recordAgrees (s : State) : Prop := s.fault = true ↔ s.cause ≠ .none

/-- BUF is in canonical form: one byte at each of the indices 0 to 63 and nowhere else (R28, R59). -/
abbrev State.bufferWf (s : State) : Prop := Memory.wf s.buf = true

/-- While CMP runs its steps T is between 0 and 64 (R23). -/
abbrev State.indexInRange (s : State) : Prop := s.agent = .cmp → s.t.toNat ≤ 64

/-- The invariant of the machine, kept by every step. -/
abbrev State.Inv (s : State) : Prop := s.countInRange ∧ s.recordAgrees ∧ s.bufferWf ∧ s.indexInRange

/-- A run that ends so has kept to the source's contract (R197). -/
abbrev State.withinContract (s : State) : Prop := s.fault = false

/-- In phase ACTIVE after an INIT and UPDATEs whose payloads together are `payload` (R31). -/
abbrev State.Streamed (payload : List Byte) (s : State) : Prop :=
  s.phase = .active ∧ s.cnt.toNat = payload.length % 64 ∧ s.len = bitCount payload.length ∧
    s.h = foldBlocks (payload.length / 64) initialHash payload ∧
    validBytes s = payload.drop (64 * (payload.length / 64))

/-- In phase ACTIVE the context is that of some payload (R31). -/
abbrev State.StreamInv (s : State) : Prop := s.phase = .active → ∃ payload, State.Streamed payload s

/-- Two states agree on what UPDATE is specified to leave: H, CNT, LEN, PHASE and the valid bytes of BUF (R155);
stale bytes may differ (R32). -/
abbrev State.SameStream (s t : State) : Prop :=
  s.h = t.h ∧ s.cnt = t.cnt ∧ s.len = t.len ∧ s.phase = t.phase ∧ validBytes s = validBytes t

end Sys2Proof.Machine
end

