-- ==== Sys2Proof/Certificates/Slice0/Obligations.lean ====
section
/-! DEFINITION. The statements for the provers. Each docstring names the rules of spec/ that the statement
formalises or rests on. -/

open Sys2Proof Sys2Proof.Machine

namespace Sys2Proof.Spec

/-- What a row of table T1 leaves (R113, R114): the word `new = b + rotate_left(a + f(b, c, d) + M[g] + k, s)` in the
role of `b`, the other three roles moved on, T at the next index, and nothing else changed. -/
def rowResult (f : Word → Word → Word → Word) (t g sh : Nat) (k : Word) (s : State) : State :=
  let q := s.work
  let x := q.a + f q.b q.c q.d + messageWord s.blockIn g + k
  { s with work := ⟨q.d, q.b + x.rotateLeft sh, q.b, q.c⟩, t := BitVec.ofNat 7 (t + 1) }

/-- Rows of table T1: the instruction, t, g(t), S[t], K[t]. -/
abbrev Rows := List (Instr × Nat × Nat × Nat × Word)

/-- Every row runs, in every state, with the result that the table gives it. -/
def RowsRun (f : Word → Word → Word → Word) (rows : Rows) : Prop :=
  ∀ i t g sh k, (i, t, g, sh, k) ∈ rows → ∀ s : State, exec i s = .next (rowResult f t g sh k s)

/-- Two answers that are both a next state, with what holds of the two. -/
def BothNext (x y : Host.Outcome State Fault Refusal) (p : State → State → Prop) : Prop :=
  ∃ t u, x = .next t ∧ y = .next u ∧ p t u

/-- The record a fault leaves: FAULT set, CAUSE the first fault's code, everything else as it was (R196). -/
def faulted (c : Cause) (s : State) : State :=
  { s with fault := true, cause := if s.fault = false then c else s.cause }

/-- Round 0 of table T1. -/
def roundZeroRows : Rows :=
  [(.ff00, 0, 0, 7, 0xd76aa478), (.ff01, 1, 1, 12, 0xe8c7b756),
   (.ff02, 2, 2, 17, 0x242070db), (.ff03, 3, 3, 22, 0xc1bdceee),
   (.ff04, 4, 4, 7, 0xf57c0faf), (.ff05, 5, 5, 12, 0x4787c62a),
   (.ff06, 6, 6, 17, 0xa8304613), (.ff07, 7, 7, 22, 0xfd469501),
   (.ff08, 8, 8, 7, 0x698098d8), (.ff09, 9, 9, 12, 0x8b44f7af),
   (.ff10, 10, 10, 17, 0xffff5bb1), (.ff11, 11, 11, 22, 0x895cd7be),
   (.ff12, 12, 12, 7, 0x6b901122), (.ff13, 13, 13, 12, 0xfd987193),
   (.ff14, 14, 14, 17, 0xa679438e), (.ff15, 15, 15, 22, 0x49b40821)]

/-- Round 1 of table T1. -/
def roundOneRows : Rows :=
  [(.gg16, 16, 1, 5, 0xf61e2562), (.gg17, 17, 6, 9, 0xc040b340),
   (.gg18, 18, 11, 14, 0x265e5a51), (.gg19, 19, 0, 20, 0xe9b6c7aa),
   (.gg20, 20, 5, 5, 0xd62f105d), (.gg21, 21, 10, 9, 0x02441453),
   (.gg22, 22, 15, 14, 0xd8a1e681), (.gg23, 23, 4, 20, 0xe7d3fbc8),
   (.gg24, 24, 9, 5, 0x21e1cde6), (.gg25, 25, 14, 9, 0xc33707d6),
   (.gg26, 26, 3, 14, 0xf4d50d87), (.gg27, 27, 8, 20, 0x455a14ed),
   (.gg28, 28, 13, 5, 0xa9e3e905), (.gg29, 29, 2, 9, 0xfcefa3f8),
   (.gg30, 30, 7, 14, 0x676f02d9), (.gg31, 31, 12, 20, 0x8d2a4c8a)]

/-- Round 2 of table T1. -/
def roundTwoRows : Rows :=
  [(.hh32, 32, 5, 4, 0xfffa3942), (.hh33, 33, 8, 11, 0x8771f681),
   (.hh34, 34, 11, 16, 0x6d9d6122), (.hh35, 35, 14, 23, 0xfde5380c),
   (.hh36, 36, 1, 4, 0xa4beea44), (.hh37, 37, 4, 11, 0x4bdecfa9),
   (.hh38, 38, 7, 16, 0xf6bb4b60), (.hh39, 39, 10, 23, 0xbebfbc70),
   (.hh40, 40, 13, 4, 0x289b7ec6), (.hh41, 41, 0, 11, 0xeaa127fa),
   (.hh42, 42, 3, 16, 0xd4ef3085), (.hh43, 43, 6, 23, 0x04881d05),
   (.hh44, 44, 9, 4, 0xd9d4d039), (.hh45, 45, 12, 11, 0xe6db99e5),
   (.hh46, 46, 15, 16, 0x1fa27cf8), (.hh47, 47, 2, 23, 0xc4ac5665)]

/-- Round 3 of table T1. -/
def roundThreeRows : Rows :=
  [(.ii48, 48, 0, 6, 0xf4292244), (.ii49, 49, 7, 10, 0x432aff97),
   (.ii50, 50, 14, 15, 0xab9423a7), (.ii51, 51, 5, 21, 0xfc93a039),
   (.ii52, 52, 12, 6, 0x655b59c3), (.ii53, 53, 3, 10, 0x8f0ccc92),
   (.ii54, 54, 10, 15, 0xffeff47d), (.ii55, 55, 1, 21, 0x85845dd1),
   (.ii56, 56, 8, 6, 0x6fa87e4f), (.ii57, 57, 15, 10, 0xfe2ce6e0),
   (.ii58, 58, 6, 15, 0xa3014314), (.ii59, 59, 13, 21, 0x4e0811a1),
   (.ii60, 60, 4, 6, 0xf7537e82), (.ii61, 61, 11, 10, 0xbd3af235),
   (.ii62, 62, 2, 15, 0x2ad7d2bb), (.ii63, 63, 9, 21, 0xeb86d391)]

/-- All of table T1. -/
def tableRows : Rows := roundZeroRows ++ roundOneRows ++ roundTwoRows ++ roundThreeRows

end Sys2Proof.Spec

open Sys2Proof.Spec

/-- Every beat decodes by its opcode, and the encoder writes the canonical beats (R83). -/
def Obligations.BeatsDecodeByOpcode : Prop :=
  ∀ v : Byte,
    decodeBeat (0x000#10 + v.setWidth 10) = .nop ∧
    decodeBeat (0x100#10 + v.setWidth 10) = .init ∧
    decodeBeat (0x200#10 + v.setWidth 10) = .update [v] ∧
    decodeBeat (0x300#10 + v.setWidth 10) = .final ∧
    encode .nop = [.beat 0x000] ∧ encode .init = [.beat 0x100] ∧
    encode (.update [v]) = [.beat (0x200#10 + v.setWidth 10)] ∧ encode .final = [.beat 0x300]

/-- Words written out from the encodings decode to the instructions they stand for (R82, R83, R86, R110). -/
def Obligations.WordsWrittenFromTheEncodingDecode : Prop :=
  decodeBits .cmd 0b0000000000 = .ok .nop ∧ decodeBits .cmd 0b0111111111 = .ok .init ∧
  decodeBits .cmd 0b1001100001 = .ok (.update [0x61]) ∧ decodeBits .cmd 0b1100000000 = .ok .final ∧
  decodeBits .step 0b000101 = .ok .ff05 ∧ decodeBits .step 0b010000 = .ok .gg16 ∧
  decodeBits .step 0b101111 = .ok .hh47 ∧ decodeBits .step 0b111111 = .ok .ii63 ∧
  decodeBits .func 0 = .ok .compress

/-- Decoding the words of an instruction gives the instruction back (R82, R83, R85, R86, spec/opcode_table.json). -/
def Obligations.DecodeOfEncodeIsTheInstruction : Prop :=
  (∀ i : Instr, i.wellFormed = true → (encode i).map decodeCode = [i]) ∧
  (∀ data : List Byte, (encode (.update data)).map decodeCode = data.map fun v => .update [v])

/-- Every word decodes to an instruction that its own opcode encodes (R82, R83, R86, R91). -/
def Obligations.EncodeOfDecodeIsCanonical : Prop :=
  (∀ cw : BitVec 10, ∃ c : Code, encode (decodeBeat cw) = [c] ∧ decodeCode c = decodeBeat cw ∧
    c = .beat (if beatOp cw = 0b10 then cw else beatOp cw ++ (0#8))) ∧
  (∀ t : BitVec 6, ∃ c : Code, encode (decodeStep t) = [c] ∧ decodeCode c = decodeStep t ∧ c = .step t) ∧
  (∃ c : Code, encode (decodeCode .func) = [c] ∧ decodeCode c = decodeCode .func ∧ c = .func)

/-- A number is refused, by name, exactly when it is no word of its format (R82, R86, R90, R110). -/
def Obligations.TooWideWordsAreRefusedByName : Prop :=
  ∀ w : Nat,
    decodeBits .cmd w = (if w < 1024 then .ok (decodeBeat (BitVec.ofNat 10 w)) else .error (.beatTooWide w)) ∧
    decodeBits .step w = (if w < 64 then .ok (decodeStep (BitVec.ofNat 6 w)) else .error (.stepTooWide w)) ∧
    decodeBits .func w = (if w = 0 then .ok .compress else .error (.funcHasNoBits w))

/-- Words and bytes convert little-endian, and back (R8). That DEC32(LE32(w)) = w for every word w is the sentence
that R8 marks as its own inference, [derived: from the two definitions]. -/
def Obligations.LittleEndianConversionsAreInverse : Prop :=
  (∀ b0 b1 b2 b3 : Byte, (dec32 b0 b1 b2 b3).toNat =
    b0.toNat + 2 ^ 8 * b1.toNat + 2 ^ 16 * b2.toNat + 2 ^ 24 * b3.toNat) ∧
  (∀ w : Word, ∃ b0 b1 b2 b3, le32 w = [b0, b1, b2, b3] ∧ dec32 b0 b1 b2 b3 = w ∧
    b0.toNat = w.toNat % 2 ^ 8 ∧ b1.toNat = w.toNat / 2 ^ 8 % 2 ^ 8 ∧
    b2.toNat = w.toNat / 2 ^ 16 % 2 ^ 8 ∧ b3.toNat = w.toNat / 2 ^ 24) ∧
  (∀ v : BitVec 64, ∃ lo hi : Word, le64 v = le32 lo ++ le32 hi ∧ lo.toNat = v.toNat % 2 ^ 32 ∧
    hi.toNat = v.toNat / 2 ^ 32)

/-- The message words of a block are its bytes, four at a time, little-endian (R51). -/
def Obligations.BlockBytesDecodeToMessageWords : Prop :=
  (∀ bytes : List Byte, bytes.length = 64 → ∀ j : Nat, j < 16 →
    messageWord (blockOfBytes bytes) j =
      dec32 (bytes.getD (4 * j) 0) (bytes.getD (4 * j + 1) 0) (bytes.getD (4 * j + 2) 0)
        (bytes.getD (4 * j + 3) 0)) ∧
  (∀ rest : List Byte, rest.length = 60 →
    messageWord (blockOfBytes ([0x61, 0x62, 0x63, 0x80] ++ rest)) 0 = 0x80636261)

/-- Message word j is bits 32j+31 to 32j of the block port, byte k bits 8k+7 to 8k (R95, R51). -/
def Obligations.MessageWordsAreSlicesOfTheBlockPort : Prop :=
  (∀ (blk : Block) (j : Nat), j < 16 → messageWord blk j = blk.extractLsb' (32 * j) 32) ∧
  (∀ bytes : List Byte, bytes.length = 64 → ∀ k : Nat, k < 64 →
    (blockOfBytes bytes).extractLsb' (8 * k) 8 = bytes.getD k 0)

/-- The length field at bytes 56 to 63 is LEN, low half in M[14], high half in M[15] (R53). -/
def Obligations.LengthFieldFillsTheLastTwoWords : Prop :=
  ∀ (front : List Byte) (len : BitVec 64), front.length = 56 →
    le64 len = le32 (len.extractLsb' 0 32) ++ le32 (len.extractLsb' 32 32) ∧
    messageWord (blockOfBytes (front ++ le64 len)) 14 = len.extractLsb' 0 32 ∧
    messageWord (blockOfBytes (front ++ le64 len)) 15 = len.extractLsb' 32 32

/-- A byte written to BUF is seen in its word of the whole-block read (R55, R10). -/
def Obligations.ByteWrittenIsSeenInItsWord : Prop :=
  ∀ (m : Memory) (i : Nat) (v : Byte), Memory.wf m = true → i < 64 →
    (messageWord (blockOfBytes ((Memory.write m i v).readBytes 0 64)) (i / 4)).extractLsb' (8 * (i % 4)) 8 = v ∧
    ∀ k : Nat, k < 64 → k ≠ i →
      (blockOfBytes ((Memory.write m i v).readBytes 0 64)).extractLsb' (8 * k) 8 = Memory.read m k

/-- MemRead and MemWrite answer exactly for accesses inside BUF (R60, R10). Past byte 64 the spec leaves both
undefined: that the model stops there under the name bufferBounds is its own choice, log entry 12. -/
def Obligations.BufferAccessesStayInBounds : Prop :=
  ∀ (addr : Nat) (s : State),
    (∀ n : Nat, memRead addr n s =
      if addr + n ≤ 64 then .ok ((List.range n).map fun i => Memory.read s.buf (addr + i)) else .error .bufferBounds) ∧
    (∀ bytes : List Byte, memWrite addr bytes s =
      if addr + bytes.length ≤ 64 then .ok { s with buf := Memory.writeBytes s.buf addr bytes }
      else .error .bufferBounds)

/-- rotl32 moves every bit up by n places, the top n re-entering at the bottom (R128). The range of the shift
amounts rests on the table S, which R117 marks [from general knowledge, not in source] (PRESUMED: log entry 15). -/
def Obligations.RotationMovesEveryBitUp : Prop :=
  (∀ (x : Word) (n i : Nat), 1 ≤ n → n ≤ 31 → i < 32 →
    (rotl32 x n).getLsbD ((i + n) % 32) = x.getLsbD i) ∧
  (∀ n : Nat, 1 ≤ n → n ≤ 31 → rotl32 0 n = 0 ∧ rotl32 0xffffffff n = 0xffffffff) ∧
  (∀ t : BitVec 6, 4 ≤ shiftAmount t ∧ shiftAmount t ≤ 23)

/-- The four mixing functions are bit by bit the selections, the parity and the fourth combinator
(spec/40_compressor.md section 2, table of Mix and truth tables). The formulas and tables are those of R115,
which the spec marks [from general knowledge, not in source] (log entry 15). -/
def Obligations.MixingFunctionsFollowTheirTruthTables : Prop :=
  ∀ (b c d : Word) (i : Nat), i < 32 →
    (mix 0 b c d).getLsbD i = (if b.getLsbD i then c.getLsbD i else d.getLsbD i) ∧
    (mix 1 b c d).getLsbD i = (if d.getLsbD i then b.getLsbD i else c.getLsbD i) ∧
    (mix 2 b c d).getLsbD i = ((b.getLsbD i ^^ c.getLsbD i) ^^ d.getLsbD i) ∧
    (mix 3 b c d).getLsbD i = (c.getLsbD i ^^ (b.getLsbD i || !d.getLsbD i))

/-- The tables K, S and G of the model are table T1, and each round uses each message word once
(spec/40_compressor.md section 3, table T1). The values are those of R116, R117 and R118, which the spec marks
[from general knowledge, not in source] (log entry 15). -/
def Obligations.ConstantTablesAreTableT1 : Prop :=
  (∀ i t g sh k, (i, t, g, sh, k) ∈ tableRows →
    wordIndex (BitVec.ofNat 6 t) = g ∧ shiftAmount (BitVec.ofNat 6 t) = sh ∧ roundConst (BitVec.ofNat 6 t) = k) ∧
  (∀ t : BitVec 6, wordIndex t =
    if t.toNat < 16 then t.toNat % 16 else if t.toNat < 32 then (5 * t.toNat + 1) % 16
    else if t.toNat < 48 then (3 * t.toNat + 5) % 16 else (7 * t.toNat) % 16) ∧
  (∀ round : BitVec 2, ((List.range 16).map fun i => wordIndex (round ++ BitVec.ofNat 4 i)).Nodup)

/-- An UPDATE of L bytes adds 8 L to LEN modulo 2^64 (R88). -/
def Obligations.PayloadLengthIsCountedInBits : Prop :=
  ∀ (data : List Byte) (s : State), s.phase = .active → s.cnt.toNat < 64 →
    ∃ t, exec (.update data) s = .next t ∧ t.len.toNat = (s.len.toNat + 8 * data.length) % 2 ^ 64 ∧
      t.len = s.len + ((BitVec.ofNat 61 data.length).setWidth 64 <<< 3)

/-- The padding is the marker, the fewest zero bytes, and the bit length (R156, spec/30_encoding.md section 4, the
padding). The padding is that of R89, whose formula for z is one which the spec marks as its own inference,
[derived: ...]. -/
def Obligations.PaddingIsMinimal : Prop :=
  (∀ (tail : List Byte) (bits : BitVec 64), ∃ z : Nat,
    paddedTail tail bits = tail ++ [0x80] ++ List.replicate z 0x00 ++ le64 bits ∧
    (z : Int) = (55 - (tail.length : Int)) % 64 ∧
    (paddedTail tail bits).length % 64 = 0 ∧
    (∀ y : Nat, y < z → (tail.length + 1 + y + 8) % 64 ≠ 0) ∧
    (tail.length ≤ 55 → (paddedTail tail bits).length = 64) ∧
    (56 ≤ tail.length → tail.length ≤ 63 → (paddedTail tail bits).length = 128)) ∧
  (∀ s : State, s.phase = .active → s.cnt.toNat < 64 → s.bufferWf →
    ∃ t, exec .final s = .next t ∧ t.h = hashBlocks s.h (paddedTail (validBytes s) s.len))

/-- The FF steps 0 to 15 run in every state with the result of their row of table T1, and change nothing else
(spec/40_compressor.md section 2, the entry FF, and table T1). The entry is R122 and the row form R113; they
rest on tables and formulas which the spec marks [from general knowledge, not in source] (log entry 15). That a
row runs with the index of its name, and sets T to the index after it, in a state whose T is another is the
model's reading (DEDUCED: log entry 13), since R113 speaks of the current T. -/
def Obligations.StepsFFRunAsTheTableSays : Prop :=
  RowsRun (fun b c d => (b &&& c) ||| (~~~b &&& d)) roundZeroRows ∧
  (∀ b c d : Word, mixF 0 c d = d ∧ mixF 0xffffffff c d = c ∧ mixF b c c = c) ∧
  stepQuad mixF 0x00000080 0xd76aa478 7 ⟨0x67452301, 0xefcdab89, 0x98badcfe, 0x10325476⟩ =
    ⟨0x10325476, 0xa5202774, 0xefcdab89, 0x98badcfe⟩

/-- The GG steps 16 to 31 run in every state with the result of their row of table T1, and change nothing else
(spec/40_compressor.md section 2, the entry GG, and table T1). The entry is R123 and the row form R113; they
rest on tables and formulas which the spec marks [from general knowledge, not in source] (log entry 15). That a
row runs with the index of its name, and sets T to the index after it, in a state whose T is another is the
model's reading (DEDUCED: log entry 13), since R113 speaks of the current T. -/
def Obligations.StepsGGRunAsTheTableSays : Prop :=
  RowsRun (fun b c d => (b &&& d) ||| (c &&& ~~~d)) roundOneRows ∧
  (∀ b c : Word, mixG b c 0 = c ∧ mixG b c 0xffffffff = b) ∧
  stepQuad mixG 0 0xf61e2562 5 ⟨0xf56c7cf1, 0xd6819c6a, 0x5aa53f75, 0x374943a7⟩ =
    ⟨0x374943a7, 0x1c7d7513, 0xd6819c6a, 0x5aa53f75⟩

/-- The HH steps 32 to 47 run in every state with the result of their row of table T1, and change nothing else
(spec/40_compressor.md section 2, the entry HH, and table T1). The entry is R124 and the row form R113; they
rest on tables and formulas which the spec marks [from general knowledge, not in source] (log entry 15). That a
row runs with the index of its name, and sets T to the index after it, in a state whose T is another is the
model's reading (DEDUCED: log entry 13), since R113 speaks of the current T. -/
def Obligations.StepsHHRunAsTheTableSays : Prop :=
  RowsRun (fun b c d => (b ^^^ c) ^^^ d) roundTwoRows ∧
  (∀ b d : Word, mixH b b d = d ∧ mixH b b b = b) ∧
  stepQuad mixH 0 0xfffa3942 4 ⟨0x13707036, 0xa2205f1f, 0x1c31c384, 0xae7813db⟩ =
    ⟨0xae7813db, 0xdf63eaa1, 0xa2205f1f, 0x1c31c384⟩

/-- The II steps 48 to 63 run in every state with the result of their row of table T1, and change nothing else
(spec/40_compressor.md section 2, the entry II, and table T1). The entry is R125 and the row form R113; they
rest on tables and formulas which the spec marks [from general knowledge, not in source] (log entry 15). That a
row runs with the index of its name, and sets T to the index after it, in a state whose T is another is the
model's reading (DEDUCED: log entry 13), since R113 speaks of the current T. -/
def Obligations.StepsIIRunAsTheTableSays : Prop :=
  RowsRun (fun b c d => c ^^^ (b ||| ~~~d)) roundThreeRows ∧
  (∀ b c d : Word, mixI 0xffffffff c d = ~~~c ∧ mixI b c 0 = ~~~c ∧ mixI 0 c 0xffffffff = c) ∧
  stepQuad mixI 0x00000080 0xf4292244 6 ⟨0x3f55edfd, 0xca7d2dbd, 0x68d84ea2, 0x22a31f54⟩ =
    ⟨0x22a31f54, 0x93aa2577, 0xca7d2dbd, 0x68d84ea2⟩

/-- The instruction of each index is the one step of the compressor at that index, whatever T holds
(spec/40_compressor.md section 1, the pseudocode of one step). The step is that of R113 and R114; its addition
of b and its letters rest on text which the spec marks [from general knowledge, not in source] (log entry 15).
That a row runs with the index of its name, and sets T to the index after it, in a state whose T is another is
the model's reading (DEDUCED: log entry 13), since R113 speaks of the current T. -/
def Obligations.EveryStepIsTheStepOfItsIndex : Prop :=
  ∀ (t : BitVec 6) (s : State), exec (decodeStep t) s = .next (
    let f := mix (t.extractLsb' 4 2) s.work.b s.work.c s.work.d
    let x := add32 (add32 (add32 s.work.a f) (messageWord s.blockIn (wordIndex t))) (roundConst t)
    let nb := add32 s.work.b (rotl32 x (shiftAmount t))
    { s with work := ⟨s.work.d, nb, s.work.b, s.work.c⟩, t := BitVec.ofNat 7 (t.toNat + 1) })

/-- COMPRESS completes on any operands with the 64 steps and the feed-forward on its result port
(spec/40_compressor.md section 1, the pseudocode of COMPRESS and its two values). The function is that of R110;
its values rest on tables which the spec marks [from general knowledge, not in source] (log entry 15). -/
def Obligations.CompressAnswersItsFunction : Prop :=
  (∀ (h : Quad) (blk : Block), compress h blk =
    let w := (List.range 64).foldl (fun q t => roundStep blk (BitVec.ofNat 6 t) q) h
    ⟨add32 h.a w.a, add32 h.b w.b, add32 h.c w.c, add32 h.d w.d⟩) ∧
  (∀ s : State, ∃ w, exec .compress s = .next
    { s with
      stateOut := quadBits (compress (quadOfBits s.stateIn) s.blockIn), t := 64, agent := .ctl, work := w
      draws := s.draws + 1 }) ∧
  compress ⟨0, 0, 0, 0⟩ (blockOfBytes (List.replicate 64 0x00)) =
    ⟨0xf7cd1c97, 0xa5483681, 0x2b68d832, 0xf90ca639⟩ ∧
  compress ⟨0x67452301, 0xefcdab89, 0x98badcfe, 0x10325476⟩ (blockOfBytes (0x80 :: List.replicate 63 0x00)) =
    ⟨0xd98c1dd4, 0x04b2008f, 0x980980e9, 0x7e42f8ec⟩

/-- A COMPRESS run one step of T at a time ends as the function Compress says (R110, R112, R113, R119, R120, R23).
The step by step run itself is the model's choice: log entry 4. -/
def Obligations.StepByStepRunIsCompress : Prop :=
  ∀ (s : State) (p : QuadPort) (blk : Block) (rest : List Event),
    s.agent = .ctl → s.input = .start p blk :: rest → rest.head? ≠ some .reset →
    ∃ w, Host.Core.run Sys2Proof.core 66 s = .next
      { s with
        input := rest, stateIn := p, blockIn := blk, stateOut := quadBits (compress (quadOfBits p) blk)
        t := 64, work := w, draws := s.draws + 1 }

/-- The tuned compressor computes the same function as the portable one (R132, R228, R5). The schedule of the tuned
one is the model's choice, the example that R132 gives: log entry 20. -/
def Obligations.TunedCompressorEqualsPortable : Prop :=
  ∀ (impl : Impl) (h : Quad) (blk : Block), compressBy impl h blk = compress h blk

/-- Neither a step nor a stand-alone COMPRESS can be seen on the ports of CTL (R33, R120, R110). -/
def Obligations.CmpLeavesTheContextAlone : Prop :=
  (∀ (i : Instr) (s : State), (i = .compress ∨ ∃ t, i = decodeStep t) → ∃ u, exec i s = .next u ∧
    u.h = s.h ∧ u.buf = s.buf ∧ u.cnt = s.cnt ∧ u.len = s.len ∧ u.phase = s.phase ∧ u.fault = s.fault ∧
    u.cause = s.cause ∧ phasePort u = phasePort s ∧ digestValid u = digestValid s ∧ faultPort u = faultPort s ∧
    causePort u = causePort s ∧ (digestValid s = true → digestPort u = digestPort s)) ∧
  (∀ s s' : State, s.stateIn = s'.stateIn → s.blockIn = s'.blockIn →
    BothNext (exec .compress s) (exec .compress s') fun t u => t.stateOut = u.stateOut)

/-- NOP changes no state in any phase, and an idle port is the same (R151). -/
def Obligations.NopChangesNothing : Prop :=
  (∀ s : State, exec .nop s = .next s) ∧
  (∀ s : State, s.agent = .ctl → s.input = [] → step s = .next s)

/-- INIT sets H to the four constants, LEN and CNT to 0, PHASE to ACTIVE, and nothing else (R152). -/
def Obligations.InitLoadsTheConstants : Prop :=
  ∀ s : State, ∃ t, exec .init s = .next t ∧
    t = { s with h := ⟨0x67452301, 0xefcdab89, 0x98badcfe, 0x10325476⟩, len := 0, cnt := 0, phase := .active } ∧
    exec .init t = .next t ∧ digestValid t = false

/-- The values after hardware reset and after INIT are those of the table (R35). -/
def Obligations.ResetAndInitLeaveTheTabledValues : Prop :=
  State.reset.phase = .idle ∧ phasePort State.reset = 0b00 ∧ faultPort State.reset = 0 ∧
  causePort State.reset = 0b00 ∧ digestValid State.reset = false ∧
  ∃ t, exec .init State.reset = .next t ∧ phasePort t = 0b01 ∧ t.fault = State.reset.fault ∧
    t.cause = State.reset.cause ∧ t.h.a = 0x67452301 ∧ t.h.b = 0xefcdab89 ∧ t.h.c = 0x98badcfe ∧
    t.h.d = 0x10325476 ∧ t.len = 0 ∧ t.cnt = 0 ∧ t.buf = State.reset.buf ∧ t.work = State.reset.work ∧
    t.t = State.reset.t ∧ digestValid t = false

/-- UPDATE of the empty payload changes nothing and never faults (R198). -/
def Obligations.EmptyUpdateChangesNothing : Prop :=
  ∀ s : State, exec (.update []) s = .next s ∧ exec (.update []) s = exec .nop s

/-- UPDATE of a byte or more, or FINAL, outside phase ACTIVE is not executed and records SeqFault (R192). -/
def Obligations.CommandsOutsideActiveTakeSeqFault : Prop :=
  ∀ (i : Instr) (s : State), (i = .final ∨ ∃ data, data ≠ [] ∧ i = .update data) → s.phase ≠ .active →
    exec i s = .next (faulted .seqFault s) ∧ digestValid (faulted .seqFault s) = digestValid s ∧
    (digestValid s = true → digestPort (faulted .seqFault s) = digestPort s)

/-- UPDATE of a byte or more, or FINAL, in ACTIVE with CNT at 64 or more records CntFault and nothing else (R193). -/
def Obligations.CountOutOfRangeTakesCntFault : Prop :=
  ∀ (i : Instr) (s : State), (i = .final ∨ ∃ data, data ≠ [] ∧ i = .update data) → s.phase = .active →
    64 ≤ s.cnt.toNat → exec i s = .next (faulted .cntFault s)

/-- Taking a fault sets FAULT, writes CAUSE only if FAULT was 0, and writes nothing else (R196). -/
def Obligations.FirstFaultIsRecordedAndKept : Prop :=
  ∀ (c d : Cause) (s : State), raiseFault c s = faulted c s ∧ raiseFault d (raiseFault c s) = raiseFault c s

/-- No step but a hardware reset clears FAULT or changes a recorded CAUSE (R25, R197). -/
def Obligations.FaultRecordIsSticky : Prop :=
  ∀ s t : State, s.fault = true → resetPresented s = false → step s = .next t →
    t.fault = true ∧ t.cause = s.cause

/-- No instruction reads FAULT or CAUSE (R25, R197). -/
def Obligations.FaultRecordDoesNotGate : Prop :=
  ∀ (i : Instr) (s : State) (f : Bool) (c : Cause),
    BothNext (exec i s) (exec i (s.setRecord f c)) fun t u =>
      t.h = u.h ∧ t.phase = u.phase ∧ t.t = u.t ∧ t.stateOut = u.stateOut ∧
      (i ≠ .final → t.cnt = u.cnt ∧ t.len = u.len ∧ validBytes t = validBytes u)

/-- Every beat is a command, accepted or refused by the phase as the legality table says (R90). -/
def Obligations.LegalityFollowsThePhase : Prop :=
  (∀ cw : BitVec 10, decodeBeat cw = .nop ∨ decodeBeat cw = .init ∨ decodeBeat cw = .final ∨
    ∃ v, decodeBeat cw = .update [v]) ∧
  ∀ s : State,
    exec .nop s = .next s ∧ exec (.update []) s = .next s ∧
    (∃ t, exec .init s = .next t ∧ t.phase = .active ∧ t.fault = s.fault ∧ t.cause = s.cause) ∧
    (∀ data : List Byte, data ≠ [] →
      ∃ t, exec (.update data) s = .next t ∧ t.phase = s.phase ∧
        (s.phase = .active → s.cnt.toNat < 64 → t.fault = s.fault ∧ t.cause = s.cause) ∧
        (s.phase ≠ .active → t.fault = true ∧ (s.fault = false → t.cause = .seqFault))) ∧
    (∃ t, exec .final s = .next t ∧
      (s.phase = .active → s.cnt.toNat < 64 → t.phase = .done ∧ t.fault = s.fault ∧ t.cause = s.cause) ∧
      (s.phase ≠ .active → t.phase = s.phase ∧ t.fault = true ∧ (s.fault = false → t.cause = .seqFault)))

/-- UPDATE of one byte appends it and flushes a full buffer; any UPDATE is its bytes one by one (R153, R155). This
is R154, which the spec marks as its own inference, [derived: ...]. -/
def Obligations.UpdateOfOneByteAndByteByByte : Prop :=
  (∀ (v : Byte) (s : State), s.phase = .active → s.cnt.toNat < 64 →
    ∃ t, exec (.update [v]) s = .next t ∧ t.len = add64 s.len 8 ∧ t.phase = .active ∧
      (s.cnt.toNat < 63 → t.h = s.h ∧ t.cnt.toNat = s.cnt.toNat + 1 ∧
        (s.bufferWf → Memory.read t.buf s.cnt.toNat = v ∧ validBytes t = validBytes s ++ [v])) ∧
      (s.cnt.toNat = 63 → t.cnt = 0 ∧
        (s.bufferWf → t.h = compress s.h (blockOfBytes (validBytes s ++ [v]))))) ∧
  (∀ (data : List Byte) (s : State), s.phase = .active → s.cnt.toNat < 64 → s.bufferWf →
    BothNext (exec (.update data) s) (runCommands (data.map fun v => .update [v]) s) State.SameStream)

/-- UPDATE compresses every complete block of the pending bytes and the payload, in order, and keeps the rest (R153,
R159, R233, R32). -/
def Obligations.UpdateStreamsItsPayload : Prop :=
  ∀ (data : List Byte) (s : State), s.phase = .active → s.cnt.toNat < 64 → s.bufferWf →
    ∃ t, exec (.update data) s = .next t ∧
      t.h = foldBlocks ((s.cnt.toNat + data.length) / 64) s.h (validBytes s ++ data) ∧
      t.cnt.toNat = (s.cnt.toNat + data.length) % 64 ∧
      t.len = add64 s.len (BitVec.ofNat 64 (8 * data.length)) ∧
      validBytes t = (validBytes s ++ data).drop (64 * ((s.cnt.toNat + data.length) / 64)) ∧
      t.phase = .active ∧ t.fault = s.fault ∧ t.cause = s.cause ∧ t.input = s.input ∧ t.bufferWf

/-- What UPDATE leaves unchanged (R153, R57, R160). R32 gives stale bytes no specified value: that those outside the
writes of the pseudocode keep theirs is the model's choice, log entry 7. -/
def Obligations.UpdateFrame : Prop :=
  ∀ (data : List Byte) (s t : State), s.phase = .active → s.cnt.toNat < 64 → s.bufferWf →
    exec (.update data) s = .next t →
    t.phase = s.phase ∧ t.fault = s.fault ∧ t.cause = s.cause ∧ t.input = s.input ∧
    (∀ a : Nat,
      (0 < s.cnt.toNat →
        ¬(s.cnt.toNat ≤ a ∧ a < s.cnt.toNat + min (64 - s.cnt.toNat) data.length)) →
      (s.cnt.toNat = 0 ∨ 64 ≤ s.cnt.toNat + data.length → ¬a < (s.cnt.toNat + data.length) % 64) →
      Memory.read t.buf a = Memory.read s.buf a) ∧
    (s.cnt.toNat + data.length < 64 →
      t.h = s.h ∧ t.work = s.work ∧ t.t = s.t ∧ t.stateIn = s.stateIn ∧ t.blockIn = s.blockIn ∧
      t.stateOut = s.stateOut ∧ t.agent = s.agent)

/-- UPDATE of x and then of y is UPDATE of x followed by y (R155). -/
def Obligations.SplittingInvariance : Prop :=
  ∀ (x y : List Byte) (s : State), s.phase = .active → s.cnt.toNat < 64 → s.bufferWf →
    BothNext (runCommands [.update x, .update y] s) (exec (.update (x ++ y)) s) State.SameStream

/-- After INIT and any UPDATEs the context is the fold of the payload so far (R152, R153, R155). This is R31, which
the spec marks as its own inference, [derived: ...]. -/
def Obligations.StreamedStateIsDeterminedByThePayload : Prop :=
  ∀ (payloads : List (List Byte)) (s : State), s.bufferWf →
    ∃ t, runCommands (.init :: payloads.map .update) s = .next t ∧ State.Streamed payloads.flatten t ∧
      t.cnt.toNat = (t.len.extractLsb' 3 6).toNat ∧ t.bufferWf

/-- FINAL compresses the padded tail, once or twice, and shows the digest (R156, R89, R158, R27). -/
def Obligations.FinalPadsAndFinishes : Prop :=
  ∀ s : State, s.phase = .active → s.cnt.toNat < 64 → s.bufferWf →
    ∃ t, exec .final s = .next t ∧
      t.h = hashBlocks s.h (paddedTail (validBytes s) s.len) ∧
      (paddedTail (validBytes s) s.len).length = (if s.cnt.toNat ≤ 55 then 64 else 128) ∧
      t.phase = .done ∧ digestValid t = true ∧ digestBytes t = serialise t.h ∧
      t.fault = s.fault ∧ t.cause = s.cause ∧ t.input = s.input ∧ t.cnt.toNat < 64 ∧ t.bufferWf

/-- LEN is counted by UPDATE and written into the length field by FINAL, and has no other effect, wrapped or not
(R163, R26, R130, R156, R53). -/
def Obligations.LengthEntersOnlyTheLengthField : Prop :=
  (∀ (data : List Byte) (s : State) (l : BitVec 64), s.phase = .active → s.cnt.toNat < 64 →
    BothNext (exec (.update data) s) (exec (.update data) (s.setLen l)) fun t u =>
      t.h = u.h ∧ t.cnt = u.cnt ∧ t.phase = u.phase ∧ t.fault = u.fault ∧ t.cause = u.cause ∧
      validBytes t = validBytes u ∧
      t.len.toNat = (s.len.toNat + 8 * data.length) % 2 ^ 64 ∧ u.len.toNat = (l.toNat + 8 * data.length) % 2 ^ 64) ∧
  (∀ (s : State) (l : BitVec 64), s.phase = .active → s.cnt.toNat < 64 → s.bufferWf →
    BothNext (exec .final s) (exec .final (s.setLen l)) fun t u =>
      ∃ front : List Byte, front = validBytes s ++ [0x80] ++ zeroBytes (zeroPadding s.cnt.toNat) ∧
        front.length % 64 = 56 ∧ (le64 s.len).length = 8 ∧ (le64 l).length = 8 ∧
        t.h = hashBlocks s.h (front ++ le64 s.len) ∧ u.h = hashBlocks s.h (front ++ le64 l) ∧
        t.phase = .done ∧ u.phase = .done ∧ t.fault = u.fault ∧ t.cause = u.cause)

/-- The output ports are the functions of the state that the table gives (R34). -/
def Obligations.DigestPortShowsTheHashState : Prop :=
  ∀ s : State,
    phasePort s = (match s.phase with | .idle => 0b00 | .active => 0b01 | .done => 0b10) ∧
    (digestValid s = true ↔ s.phase = .done) ∧
    faultPort s = (if s.fault then 1 else 0) ∧
    causePort s = (match s.cause with | .none => 0b00 | .seqFault => 0b01 | .cntFault => 0b10) ∧
    (digestValid s = true →
      (digestPort s).extractLsb' 0 32 = s.h.a ∧ (digestPort s).extractLsb' 32 32 = s.h.b ∧
      (digestPort s).extractLsb' 64 32 = s.h.c ∧ (digestPort s).extractLsb' 96 32 = s.h.d ∧
      (List.range 16).map (fun k => (digestPort s).extractLsb' (8 * k) 8) =
        le32 s.h.a ++ le32 s.h.b ++ le32 s.h.c ++ le32 s.h.d)

/-- INIT, the message in any split over UPDATEs, FINAL: the digest is MD5 of the message (R152, R153, R156, R89).
This is R162, which the spec marks as its own inference, [derived: ...]; its values are V1 and V2. -/
def Obligations.ProgramDigestIsMd5 : Prop :=
  (∀ (chunks : List (List Byte)) (s : State), s.bufferWf →
    ∃ t, runCommands (hashProgram chunks) s = .next t ∧ digestValid t = true ∧
      digestBytes t = serialise (hashBlocks initialHash
        (chunks.flatten ++ [0x80] ++ zeroBytes (((55 - (chunks.flatten.length : Int)) % 64).toNat) ++
          le64 (BitVec.ofNat 64 (8 * chunks.flatten.length)))) ∧
      digestBytes t = md5 chunks.flatten) ∧
  md5 [] = [0xd4, 0x1d, 0x8c, 0xd9, 0x8f, 0x00, 0xb2, 0x04, 0xe9, 0x80, 0x09, 0x98, 0xec, 0xf8, 0x42, 0x7e] ∧
  md5 [0x61, 0x62, 0x63] =
    [0x90, 0x01, 0x50, 0x98, 0x3c, 0xd2, 0x4f, 0xb0, 0xd6, 0x96, 0x3f, 0x7d, 0x28, 0xe1, 0x7f, 0x72]

/-- A computation after INIT does not depend on what was hashed before it (R164). -/
def Obligations.ReinitialisationLeaksNothing : Prop :=
  ∀ (a b : List (List Byte)) (s s' : State), s.bufferWf → s'.bufferWf →
    BothNext (runCommands (.init :: (a.map .update ++ hashProgram b)) s) (runCommands (hashProgram b) s')
      fun t u => digestValid t = true ∧ digestValid u = true ∧ digestBytes t = digestBytes u ∧ t.h = u.h ∧
        t.fault = s.fault ∧ t.cause = s.cause

/-- H changes only by INIT or by compressing whole blocks inside UPDATE or FINAL (R21, R30). -/
def Obligations.OnlyInitAndWholeBlocksWriteHash : Prop :=
  ∀ (i : Instr) (s t : State), exec i s = .next t →
    t.h = s.h ∨ (i = .init ∧ t.h = initialHash) ∨
      ((i = .final ∨ ∃ data, i = .update data) ∧
        ∃ (n : Nat) (bytes : List Byte), 0 < n ∧ bytes.length = 64 * n ∧ t.h = foldBlocks n s.h bytes)

/-- The invariant holds right after reset (R30, R35, R27, R152, R153). -/
def Obligations.InvariantHoldsAtReset : Prop :=
  State.reset.Inv ∧ State.reset.StreamInv

/-- Every step keeps CNT below 64 once initialised, the fault record, the buffer's form and the range of T (R30,
R27, R25, R23, R193). -/
def Obligations.EveryStepKeepsTheInvariant : Prop :=
  ∀ s t : State, s.Inv → step s = .next t → t.Inv

/-- Every step of every state completes: no command stops half way and no access leaves BUF (R150, R190, R194, R60,
R233). -/
def Obligations.EveryStepCompletes : Prop :=
  (∀ s : State, ∃ t, step s = .next t) ∧ ∀ (i : Instr) (s : State), ∃ t, exec i s = .next t

/-- A step runs the instruction that the presented word, or T, selects (R61, R82, R80, R86, R23, R95, R220). The
list of events that the host presents is the model's choice (log entry 2), and so are the event start and the
begin and the feed-forward of a COMPRESS as steps of their own (log entry 4). -/
def Obligations.StepRunsTheDecodedInstruction : Prop :=
  ∀ (s : State) (rest : List Event),
    (∀ cw : BitVec 10, s.agent = .ctl → s.input = .beat cw :: rest →
      step s = exec (decodeBeat cw) { s with input := rest }) ∧
    (∀ data : List Byte, s.agent = .ctl → s.input = .update data :: rest →
      step s = exec (.update data) { s with input := rest }) ∧
    (∀ (p : QuadPort) (blk : Block), s.agent = .ctl → s.input = .compress p blk :: rest →
      step s = exec .compress { s with input := rest, stateIn := p, blockIn := blk }) ∧
    (∀ (p : QuadPort) (blk : Block), s.agent = .ctl → s.input = .start p blk :: rest →
      step s = .next
        { s with input := rest, stateIn := p, blockIn := blk, work := quadOfBits p, t := 0, agent := .cmp }) ∧
    (s.agent = .ctl → s.input = [] → step s = .next s) ∧
    (s.agent = .cmp → s.input.head? ≠ some .reset →
      step s = if s.t.toNat < 64 then exec (decodeStep (s.t.extractLsb' 0 6)) s else .next (endCompress s)) ∧
    (s.input = .reset :: rest → step s = .next (hardwareReset { s with input := rest }))

/-- A hardware reset makes PHASE IDLE and clears the record, and nothing else does (R220). -/
def Obligations.HardwareResetClearsTheRecord : Prop :=
  (∀ (s : State) (rest : List Event), s.input = .reset :: rest →
    ∃ t, step s = .next t ∧ t.phase = .idle ∧ t.fault = false ∧ t.cause = .none ∧ t.agent = .ctl ∧
      t.input = rest) ∧
  (∀ s t : State, s.input.head? ≠ some .reset → step s = .next t →
    (s.fault = true → t.fault = true) ∧ (s.cause ≠ .none → t.cause ≠ .none) ∧ (t.phase = .idle → s.phase = .idle))

/-- In phase ACTIVE the context is the fold of some payload, and every step keeps it so (R152, R153, R155). This is
the step form of R31, which the spec marks as its own inference, [derived: ...]. -/
def Obligations.EveryStepKeepsTheStreamInvariant : Prop :=
  (∀ (p d : List Byte) (s t : State), s.bufferWf → State.Streamed p s → exec (.update d) s = .next t →
    State.Streamed (p ++ d) t) ∧
  (∀ s t : State, s.bufferWf → s.StreamInv → step s = .next t → t.StreamInv)

/-- The 128-bit ports of CMP carry word j at bits 32j+31 to 32j, and state_out is Compress of state_in and block
(R95, R110). That the ports are held in State is the model's choice: log entry 3. -/
def Obligations.CompressorPortsCarryTheirWords : Prop :=
  (∀ q : Quad, (quadBits q).extractLsb' 0 32 = q.a ∧ (quadBits q).extractLsb' 32 32 = q.b ∧
    (quadBits q).extractLsb' 64 32 = q.c ∧ (quadBits q).extractLsb' 96 32 = q.d) ∧
  (∀ p : QuadPort, quadOfBits p =
    ⟨p.extractLsb' 0 32, p.extractLsb' 32 32, p.extractLsb' 64 32, p.extractLsb' 96 32⟩ ∧
    quadBits (quadOfBits p) = p) ∧
  (∀ (blk : Block) (j : Nat), j < 16 → messageWord blk j = blk.extractLsb' (32 * j) 32) ∧
  (∀ s : State, ∃ t, exec .compress s = .next t ∧ t.stateIn = s.stateIn ∧ t.blockIn = s.blockIn ∧
    quadOfBits t.stateOut = compress (quadOfBits s.stateIn) s.blockIn ∧ t.stateOut =
      (compress (quadOfBits s.stateIn) s.blockIn).d ++ (compress (quadOfBits s.stateIn) s.blockIn).c ++
      (compress (quadOfBits s.stateIn) s.blockIn).b ++ (compress (quadOfBits s.stateIn) s.blockIn).a)

/-- UPDATE and FINAL drive state_in from H and block from the bytes in hand, and store state_out into H (R95, R153,
R156). That the ports keep what was last on them is the model's choice: log entry 3. -/
def Obligations.ControllerDrivesTheCompressorPorts : Prop :=
  (∀ (data : List Byte) (s : State) (n : Nat), s.phase = .active → s.cnt.toNat < 64 → s.bufferWf →
    (s.cnt.toNat + data.length) / 64 = n + 1 →
    ∃ t, exec (.update data) s = .next t ∧ t.stateOut = quadBits t.h ∧
      t.stateIn = quadBits (foldBlocks n s.h (validBytes s ++ data)) ∧
      t.blockIn = blockOfBytes (((validBytes s ++ data).drop (64 * n)).take 64)) ∧
  (∀ (s : State) (n : Nat), s.phase = .active → s.cnt.toNat < 64 → s.bufferWf →
    (paddedTail (validBytes s) s.len).length / 64 = n + 1 →
    ∃ t, exec .final s = .next t ∧ t.stateOut = quadBits t.h ∧
      t.stateIn = quadBits (foldBlocks n s.h (paddedTail (validBytes s) s.len)) ∧
      t.blockIn = blockOfBytes ((paddedTail (validBytes s) s.len).drop (64 * n)))
end

