-- ==== Sys2Proof/Laws/Operands.lean ====
section
/-! SUPPORT. The 128-bit ports of CMP and CTL carry four words and give the same four back (spec/30_encoding.md R95,
spec/10_state.md R34). -/

namespace Sys2Proof.Machine

/-- Where the four words of a packed port stand. -/
theorem quadBits_getLsbD (q : Quad) (i : Nat) :
    (quadBits q).getLsbD i =
      if i < 32 then q.a.getLsbD i else if i < 64 then q.b.getLsbD (i - 32)
      else if i < 96 then q.c.getLsbD (i - 64) else q.d.getLsbD (i - 96) := by
  simp only [quadBits, BitVec.getLsbD_append]
  grind

/-- Unpacking what was packed. -/
@[simp] theorem quadOfBits_quadBits (q : Quad) : quadOfBits (quadBits q) = q := by
  obtain ⟨a, b, c, d⟩ := q
  simp only [quadOfBits, Quad.mk.injEq]
  refine ⟨?_, ?_, ?_, ?_⟩ <;> apply BitVec.eq_of_getLsbD_eq <;> intro i hi <;>
    simp only [BitVec.getLsbD_extractLsb', quadBits_getLsbD] <;> grind

/-- Packing what was unpacked. -/
@[simp] theorem quadBits_quadOfBits (p : QuadPort) : quadBits (quadOfBits p) = p := by
  apply BitVec.eq_of_getLsbD_eq
  intro i hi
  simp only [quadBits_getLsbD, quadOfBits, BitVec.getLsbD_extractLsb']
  grind

end Sys2Proof.Machine
end

