-- ==== Sys2Proof/Laws/State.lean ====
section
/-! SUPPORT. One lemma per field per named update of State, so that no later proof unfolds a record update. -/

namespace Sys2Proof.Machine

@[simp] theorem State.setH_h (s : State) (x : Quad) : (s.setH x).h = x := rfl
@[simp] theorem State.setH_buf (s : State) (x : Quad) : (s.setH x).buf = s.buf := rfl
@[simp] theorem State.setH_cnt (s : State) (x : Quad) : (s.setH x).cnt = s.cnt := rfl
@[simp] theorem State.setH_len (s : State) (x : Quad) : (s.setH x).len = s.len := rfl
@[simp] theorem State.setH_phase (s : State) (x : Quad) : (s.setH x).phase = s.phase := rfl
@[simp] theorem State.setH_fault (s : State) (x : Quad) : (s.setH x).fault = s.fault := rfl
@[simp] theorem State.setH_cause (s : State) (x : Quad) : (s.setH x).cause = s.cause := rfl
@[simp] theorem State.setH_work (s : State) (x : Quad) : (s.setH x).work = s.work := rfl
@[simp] theorem State.setH_t (s : State) (x : Quad) : (s.setH x).t = s.t := rfl
@[simp] theorem State.setH_stateIn (s : State) (x : Quad) : (s.setH x).stateIn = s.stateIn := rfl
@[simp] theorem State.setH_blockIn (s : State) (x : Quad) : (s.setH x).blockIn = s.blockIn := rfl
@[simp] theorem State.setH_stateOut (s : State) (x : Quad) : (s.setH x).stateOut = s.stateOut := rfl
@[simp] theorem State.setH_agent (s : State) (x : Quad) : (s.setH x).agent = s.agent := rfl
@[simp] theorem State.setH_input (s : State) (x : Quad) : (s.setH x).input = s.input := rfl
@[simp] theorem State.setH_draws (s : State) (x : Quad) : (s.setH x).draws = s.draws := rfl

@[simp] theorem State.setBuf_h (s : State) (x : Memory) : (s.setBuf x).h = s.h := rfl
@[simp] theorem State.setBuf_buf (s : State) (x : Memory) : (s.setBuf x).buf = x := rfl
@[simp] theorem State.setBuf_cnt (s : State) (x : Memory) : (s.setBuf x).cnt = s.cnt := rfl
@[simp] theorem State.setBuf_len (s : State) (x : Memory) : (s.setBuf x).len = s.len := rfl
@[simp] theorem State.setBuf_phase (s : State) (x : Memory) : (s.setBuf x).phase = s.phase := rfl
@[simp] theorem State.setBuf_fault (s : State) (x : Memory) : (s.setBuf x).fault = s.fault := rfl
@[simp] theorem State.setBuf_cause (s : State) (x : Memory) : (s.setBuf x).cause = s.cause := rfl
@[simp] theorem State.setBuf_work (s : State) (x : Memory) : (s.setBuf x).work = s.work := rfl
@[simp] theorem State.setBuf_t (s : State) (x : Memory) : (s.setBuf x).t = s.t := rfl
@[simp] theorem State.setBuf_stateIn (s : State) (x : Memory) : (s.setBuf x).stateIn = s.stateIn := rfl
@[simp] theorem State.setBuf_blockIn (s : State) (x : Memory) : (s.setBuf x).blockIn = s.blockIn := rfl
@[simp] theorem State.setBuf_stateOut (s : State) (x : Memory) : (s.setBuf x).stateOut = s.stateOut := rfl
@[simp] theorem State.setBuf_agent (s : State) (x : Memory) : (s.setBuf x).agent = s.agent := rfl
@[simp] theorem State.setBuf_input (s : State) (x : Memory) : (s.setBuf x).input = s.input := rfl
@[simp] theorem State.setBuf_draws (s : State) (x : Memory) : (s.setBuf x).draws = s.draws := rfl

@[simp] theorem State.setCnt_h (s : State) (x : BitVec 7) : (s.setCnt x).h = s.h := rfl
@[simp] theorem State.setCnt_buf (s : State) (x : BitVec 7) : (s.setCnt x).buf = s.buf := rfl
@[simp] theorem State.setCnt_cnt (s : State) (x : BitVec 7) : (s.setCnt x).cnt = x := rfl
@[simp] theorem State.setCnt_len (s : State) (x : BitVec 7) : (s.setCnt x).len = s.len := rfl
@[simp] theorem State.setCnt_phase (s : State) (x : BitVec 7) : (s.setCnt x).phase = s.phase := rfl
@[simp] theorem State.setCnt_fault (s : State) (x : BitVec 7) : (s.setCnt x).fault = s.fault := rfl
@[simp] theorem State.setCnt_cause (s : State) (x : BitVec 7) : (s.setCnt x).cause = s.cause := rfl
@[simp] theorem State.setCnt_work (s : State) (x : BitVec 7) : (s.setCnt x).work = s.work := rfl
@[simp] theorem State.setCnt_t (s : State) (x : BitVec 7) : (s.setCnt x).t = s.t := rfl
@[simp] theorem State.setCnt_stateIn (s : State) (x : BitVec 7) : (s.setCnt x).stateIn = s.stateIn := rfl
@[simp] theorem State.setCnt_blockIn (s : State) (x : BitVec 7) : (s.setCnt x).blockIn = s.blockIn := rfl
@[simp] theorem State.setCnt_stateOut (s : State) (x : BitVec 7) : (s.setCnt x).stateOut = s.stateOut := rfl
@[simp] theorem State.setCnt_agent (s : State) (x : BitVec 7) : (s.setCnt x).agent = s.agent := rfl
@[simp] theorem State.setCnt_input (s : State) (x : BitVec 7) : (s.setCnt x).input = s.input := rfl
@[simp] theorem State.setCnt_draws (s : State) (x : BitVec 7) : (s.setCnt x).draws = s.draws := rfl

@[simp] theorem State.setLen_h (s : State) (x : BitVec 64) : (s.setLen x).h = s.h := rfl
@[simp] theorem State.setLen_buf (s : State) (x : BitVec 64) : (s.setLen x).buf = s.buf := rfl
@[simp] theorem State.setLen_cnt (s : State) (x : BitVec 64) : (s.setLen x).cnt = s.cnt := rfl
@[simp] theorem State.setLen_len (s : State) (x : BitVec 64) : (s.setLen x).len = x := rfl
@[simp] theorem State.setLen_phase (s : State) (x : BitVec 64) : (s.setLen x).phase = s.phase := rfl
@[simp] theorem State.setLen_fault (s : State) (x : BitVec 64) : (s.setLen x).fault = s.fault := rfl
@[simp] theorem State.setLen_cause (s : State) (x : BitVec 64) : (s.setLen x).cause = s.cause := rfl
@[simp] theorem State.setLen_work (s : State) (x : BitVec 64) : (s.setLen x).work = s.work := rfl
@[simp] theorem State.setLen_t (s : State) (x : BitVec 64) : (s.setLen x).t = s.t := rfl
@[simp] theorem State.setLen_stateIn (s : State) (x : BitVec 64) : (s.setLen x).stateIn = s.stateIn := rfl
@[simp] theorem State.setLen_blockIn (s : State) (x : BitVec 64) : (s.setLen x).blockIn = s.blockIn := rfl
@[simp] theorem State.setLen_stateOut (s : State) (x : BitVec 64) : (s.setLen x).stateOut = s.stateOut := rfl
@[simp] theorem State.setLen_agent (s : State) (x : BitVec 64) : (s.setLen x).agent = s.agent := rfl
@[simp] theorem State.setLen_input (s : State) (x : BitVec 64) : (s.setLen x).input = s.input := rfl
@[simp] theorem State.setLen_draws (s : State) (x : BitVec 64) : (s.setLen x).draws = s.draws := rfl

@[simp] theorem State.setPhase_h (s : State) (x : Phase) : (s.setPhase x).h = s.h := rfl
@[simp] theorem State.setPhase_buf (s : State) (x : Phase) : (s.setPhase x).buf = s.buf := rfl
@[simp] theorem State.setPhase_cnt (s : State) (x : Phase) : (s.setPhase x).cnt = s.cnt := rfl
@[simp] theorem State.setPhase_len (s : State) (x : Phase) : (s.setPhase x).len = s.len := rfl
@[simp] theorem State.setPhase_phase (s : State) (x : Phase) : (s.setPhase x).phase = x := rfl
@[simp] theorem State.setPhase_fault (s : State) (x : Phase) : (s.setPhase x).fault = s.fault := rfl
@[simp] theorem State.setPhase_cause (s : State) (x : Phase) : (s.setPhase x).cause = s.cause := rfl
@[simp] theorem State.setPhase_work (s : State) (x : Phase) : (s.setPhase x).work = s.work := rfl
@[simp] theorem State.setPhase_t (s : State) (x : Phase) : (s.setPhase x).t = s.t := rfl
@[simp] theorem State.setPhase_stateIn (s : State) (x : Phase) : (s.setPhase x).stateIn = s.stateIn := rfl
@[simp] theorem State.setPhase_blockIn (s : State) (x : Phase) : (s.setPhase x).blockIn = s.blockIn := rfl
@[simp] theorem State.setPhase_stateOut (s : State) (x : Phase) : (s.setPhase x).stateOut = s.stateOut := rfl
@[simp] theorem State.setPhase_agent (s : State) (x : Phase) : (s.setPhase x).agent = s.agent := rfl
@[simp] theorem State.setPhase_input (s : State) (x : Phase) : (s.setPhase x).input = s.input := rfl
@[simp] theorem State.setPhase_draws (s : State) (x : Phase) : (s.setPhase x).draws = s.draws := rfl

@[simp] theorem State.setT_h (s : State) (x : BitVec 7) : (s.setT x).h = s.h := rfl
@[simp] theorem State.setT_buf (s : State) (x : BitVec 7) : (s.setT x).buf = s.buf := rfl
@[simp] theorem State.setT_cnt (s : State) (x : BitVec 7) : (s.setT x).cnt = s.cnt := rfl
@[simp] theorem State.setT_len (s : State) (x : BitVec 7) : (s.setT x).len = s.len := rfl
@[simp] theorem State.setT_phase (s : State) (x : BitVec 7) : (s.setT x).phase = s.phase := rfl
@[simp] theorem State.setT_fault (s : State) (x : BitVec 7) : (s.setT x).fault = s.fault := rfl
@[simp] theorem State.setT_cause (s : State) (x : BitVec 7) : (s.setT x).cause = s.cause := rfl
@[simp] theorem State.setT_work (s : State) (x : BitVec 7) : (s.setT x).work = s.work := rfl
@[simp] theorem State.setT_t (s : State) (x : BitVec 7) : (s.setT x).t = x := rfl
@[simp] theorem State.setT_stateIn (s : State) (x : BitVec 7) : (s.setT x).stateIn = s.stateIn := rfl
@[simp] theorem State.setT_blockIn (s : State) (x : BitVec 7) : (s.setT x).blockIn = s.blockIn := rfl
@[simp] theorem State.setT_stateOut (s : State) (x : BitVec 7) : (s.setT x).stateOut = s.stateOut := rfl
@[simp] theorem State.setT_agent (s : State) (x : BitVec 7) : (s.setT x).agent = s.agent := rfl
@[simp] theorem State.setT_input (s : State) (x : BitVec 7) : (s.setT x).input = s.input := rfl
@[simp] theorem State.setT_draws (s : State) (x : BitVec 7) : (s.setT x).draws = s.draws := rfl

@[simp] theorem State.setAgent_h (s : State) (x : Agent) : (s.setAgent x).h = s.h := rfl
@[simp] theorem State.setAgent_buf (s : State) (x : Agent) : (s.setAgent x).buf = s.buf := rfl
@[simp] theorem State.setAgent_cnt (s : State) (x : Agent) : (s.setAgent x).cnt = s.cnt := rfl
@[simp] theorem State.setAgent_len (s : State) (x : Agent) : (s.setAgent x).len = s.len := rfl
@[simp] theorem State.setAgent_phase (s : State) (x : Agent) : (s.setAgent x).phase = s.phase := rfl
@[simp] theorem State.setAgent_fault (s : State) (x : Agent) : (s.setAgent x).fault = s.fault := rfl
@[simp] theorem State.setAgent_cause (s : State) (x : Agent) : (s.setAgent x).cause = s.cause := rfl
@[simp] theorem State.setAgent_work (s : State) (x : Agent) : (s.setAgent x).work = s.work := rfl
@[simp] theorem State.setAgent_t (s : State) (x : Agent) : (s.setAgent x).t = s.t := rfl
@[simp] theorem State.setAgent_stateIn (s : State) (x : Agent) : (s.setAgent x).stateIn = s.stateIn := rfl
@[simp] theorem State.setAgent_blockIn (s : State) (x : Agent) : (s.setAgent x).blockIn = s.blockIn := rfl
@[simp] theorem State.setAgent_stateOut (s : State) (x : Agent) : (s.setAgent x).stateOut = s.stateOut := rfl
@[simp] theorem State.setAgent_agent (s : State) (x : Agent) : (s.setAgent x).agent = x := rfl
@[simp] theorem State.setAgent_input (s : State) (x : Agent) : (s.setAgent x).input = s.input := rfl
@[simp] theorem State.setAgent_draws (s : State) (x : Agent) : (s.setAgent x).draws = s.draws := rfl

@[simp] theorem State.setInput_h (s : State) (x : List Event) : (s.setInput x).h = s.h := rfl
@[simp] theorem State.setInput_buf (s : State) (x : List Event) : (s.setInput x).buf = s.buf := rfl
@[simp] theorem State.setInput_cnt (s : State) (x : List Event) : (s.setInput x).cnt = s.cnt := rfl
@[simp] theorem State.setInput_len (s : State) (x : List Event) : (s.setInput x).len = s.len := rfl
@[simp] theorem State.setInput_phase (s : State) (x : List Event) : (s.setInput x).phase = s.phase := rfl
@[simp] theorem State.setInput_fault (s : State) (x : List Event) : (s.setInput x).fault = s.fault := rfl
@[simp] theorem State.setInput_cause (s : State) (x : List Event) : (s.setInput x).cause = s.cause := rfl
@[simp] theorem State.setInput_work (s : State) (x : List Event) : (s.setInput x).work = s.work := rfl
@[simp] theorem State.setInput_t (s : State) (x : List Event) : (s.setInput x).t = s.t := rfl
@[simp] theorem State.setInput_stateIn (s : State) (x : List Event) : (s.setInput x).stateIn = s.stateIn := rfl
@[simp] theorem State.setInput_blockIn (s : State) (x : List Event) : (s.setInput x).blockIn = s.blockIn := rfl
@[simp] theorem State.setInput_stateOut (s : State) (x : List Event) : (s.setInput x).stateOut = s.stateOut := rfl
@[simp] theorem State.setInput_agent (s : State) (x : List Event) : (s.setInput x).agent = s.agent := rfl
@[simp] theorem State.setInput_input (s : State) (x : List Event) : (s.setInput x).input = x := rfl
@[simp] theorem State.setInput_draws (s : State) (x : List Event) : (s.setInput x).draws = s.draws := rfl

@[simp] theorem State.setRecord_h (s : State) (f : Bool) (c : Cause) : (s.setRecord f c).h = s.h := rfl
@[simp] theorem State.setRecord_buf (s : State) (f : Bool) (c : Cause) : (s.setRecord f c).buf = s.buf := rfl
@[simp] theorem State.setRecord_cnt (s : State) (f : Bool) (c : Cause) : (s.setRecord f c).cnt = s.cnt := rfl
@[simp] theorem State.setRecord_len (s : State) (f : Bool) (c : Cause) : (s.setRecord f c).len = s.len := rfl
@[simp] theorem State.setRecord_phase (s : State) (f : Bool) (c : Cause) : (s.setRecord f c).phase = s.phase := rfl
@[simp] theorem State.setRecord_fault (s : State) (f : Bool) (c : Cause) : (s.setRecord f c).fault = f := rfl
@[simp] theorem State.setRecord_cause (s : State) (f : Bool) (c : Cause) : (s.setRecord f c).cause = c := rfl
@[simp] theorem State.setRecord_work (s : State) (f : Bool) (c : Cause) : (s.setRecord f c).work = s.work := rfl
@[simp] theorem State.setRecord_t (s : State) (f : Bool) (c : Cause) : (s.setRecord f c).t = s.t := rfl
@[simp] theorem State.setRecord_stateIn (s : State) (f : Bool) (c : Cause) : (s.setRecord f c).stateIn = s.stateIn := rfl
@[simp] theorem State.setRecord_blockIn (s : State) (f : Bool) (c : Cause) : (s.setRecord f c).blockIn = s.blockIn := rfl
@[simp] theorem State.setRecord_stateOut (s : State) (f : Bool) (c : Cause) : (s.setRecord f c).stateOut = s.stateOut := rfl
@[simp] theorem State.setRecord_agent (s : State) (f : Bool) (c : Cause) : (s.setRecord f c).agent = s.agent := rfl
@[simp] theorem State.setRecord_input (s : State) (f : Bool) (c : Cause) : (s.setRecord f c).input = s.input := rfl
@[simp] theorem State.setRecord_draws (s : State) (f : Bool) (c : Cause) : (s.setRecord f c).draws = s.draws := rfl

@[simp] theorem State.setPorts_h (s : State) (q : QuadPort) (b : Block) : (s.setPorts q b).h = s.h := rfl
@[simp] theorem State.setPorts_buf (s : State) (q : QuadPort) (b : Block) : (s.setPorts q b).buf = s.buf := rfl
@[simp] theorem State.setPorts_cnt (s : State) (q : QuadPort) (b : Block) : (s.setPorts q b).cnt = s.cnt := rfl
@[simp] theorem State.setPorts_len (s : State) (q : QuadPort) (b : Block) : (s.setPorts q b).len = s.len := rfl
@[simp] theorem State.setPorts_phase (s : State) (q : QuadPort) (b : Block) : (s.setPorts q b).phase = s.phase := rfl
@[simp] theorem State.setPorts_fault (s : State) (q : QuadPort) (b : Block) : (s.setPorts q b).fault = s.fault := rfl
@[simp] theorem State.setPorts_cause (s : State) (q : QuadPort) (b : Block) : (s.setPorts q b).cause = s.cause := rfl
@[simp] theorem State.setPorts_work (s : State) (q : QuadPort) (b : Block) : (s.setPorts q b).work = s.work := rfl
@[simp] theorem State.setPorts_t (s : State) (q : QuadPort) (b : Block) : (s.setPorts q b).t = s.t := rfl
@[simp] theorem State.setPorts_stateIn (s : State) (q : QuadPort) (b : Block) : (s.setPorts q b).stateIn = q := rfl
@[simp] theorem State.setPorts_blockIn (s : State) (q : QuadPort) (b : Block) : (s.setPorts q b).blockIn = b := rfl
@[simp] theorem State.setPorts_stateOut (s : State) (q : QuadPort) (b : Block) : (s.setPorts q b).stateOut = s.stateOut := rfl
@[simp] theorem State.setPorts_agent (s : State) (q : QuadPort) (b : Block) : (s.setPorts q b).agent = s.agent := rfl
@[simp] theorem State.setPorts_input (s : State) (q : QuadPort) (b : Block) : (s.setPorts q b).input = s.input := rfl
@[simp] theorem State.setPorts_draws (s : State) (q : QuadPort) (b : Block) : (s.setPorts q b).draws = s.draws := rfl

@[simp] theorem spendContext_h (s : State) : (spendContext s).h = s.h := rfl
@[simp] theorem spendContext_buf (s : State) : (spendContext s).buf = freeBuffer s := rfl
@[simp] theorem spendContext_cnt (s : State) : (spendContext s).cnt = (Config.freeCount s).setWidth 7 := rfl
@[simp] theorem spendContext_len (s : State) : (spendContext s).len = Config.freeLength s := rfl
@[simp] theorem spendContext_phase (s : State) : (spendContext s).phase = s.phase := rfl
@[simp] theorem spendContext_fault (s : State) : (spendContext s).fault = s.fault := rfl
@[simp] theorem spendContext_cause (s : State) : (spendContext s).cause = s.cause := rfl
@[simp] theorem spendContext_work (s : State) : (spendContext s).work = s.work := rfl
@[simp] theorem spendContext_t (s : State) : (spendContext s).t = s.t := rfl
@[simp] theorem spendContext_stateIn (s : State) : (spendContext s).stateIn = s.stateIn := rfl
@[simp] theorem spendContext_blockIn (s : State) : (spendContext s).blockIn = s.blockIn := rfl
@[simp] theorem spendContext_stateOut (s : State) : (spendContext s).stateOut = s.stateOut := rfl
@[simp] theorem spendContext_agent (s : State) : (spendContext s).agent = s.agent := rfl
@[simp] theorem spendContext_input (s : State) : (spendContext s).input = s.input := rfl
@[simp] theorem spendContext_draws (s : State) : (spendContext s).draws = s.draws + 1 := rfl

end Sys2Proof.Machine
end

