-- ==== Sys2Proof/Laws/Memory.lean ====
section
/-! SUPPORT. The laws of the pending buffer: a read after a write, other bytes left alone, the canonical form kept,
and what the two bounded accesses can answer (spec/00_scope.md R10, spec/20_memory.md R60). -/

namespace Sys2Proof.Machine

theorem Memory.wfFrom_mono {lo lo' : Nat} {m : Memory} (h : Memory.wfFrom lo m = true) (hl : lo' ≤ lo) :
    Memory.wfFrom lo' m = true := by
  cases m with
  | nil => rfl
  | cons c rest =>
    simp only [Memory.wfFrom, Bool.and_eq_true, decide_eq_true_eq] at h ⊢
    exact ⟨⟨⟨hl.trans h.1.1.1, h.1.1.2⟩, h.1.2⟩, h.2⟩

theorem Memory.read_below {lo a : Nat} {m : Memory} (h : Memory.wfFrom lo m = true) (ha : a < lo) :
    Memory.read m a = unlistedByte := by
  induction m generalizing lo with
  | nil => rfl
  | cons c rest ih =>
    simp only [Memory.wfFrom, Bool.and_eq_true, decide_eq_true_eq] at h
    have hne : c.1 ≠ a := by omega
    simpa [Memory.read, hne] using ih h.2 (by omega)

/-- An index past 63 holds nothing (R59). -/
theorem Memory.read_outside {lo a : Nat} {m : Memory} (h : Memory.wfFrom lo m = true) (ha : 64 ≤ a) :
    Memory.read m a = unlistedByte := by
  induction m generalizing lo with
  | nil => rfl
  | cons c rest ih =>
    simp only [Memory.wfFrom, Bool.and_eq_true, decide_eq_true_eq] at h
    have hne : c.1 ≠ a := by omega
    simpa [Memory.read, hne] using ih h.2

theorem Memory.consCell_wfFrom {lo a : Nat} {v : Byte} {m : Memory} (hm : Memory.wfFrom (a + 1) m = true)
    (hl : lo ≤ a) (ha : a < 64) : Memory.wfFrom lo (Memory.consCell a v m) = true := by
  unfold Memory.consCell
  split
  · exact Memory.wfFrom_mono hm (by omega)
  · simp_all [Memory.wfFrom]

theorem Memory.write_wfFrom {lo a : Nat} {v : Byte} {m : Memory} (hm : Memory.wfFrom lo m = true)
    (hl : lo ≤ a) (ha : a < 64) : Memory.wfFrom lo (Memory.write m a v) = true := by
  induction m generalizing lo with
  | nil => exact Memory.consCell_wfFrom rfl hl ha
  | cons c rest ih =>
    obtain ⟨b, w⟩ := c
    have h := hm
    simp only [Memory.wfFrom, Bool.and_eq_true, decide_eq_true_eq] at h
    simp only [Memory.write]
    split
    · refine Memory.consCell_wfFrom ?_ hl ha
      simp only [Memory.wfFrom, Bool.and_eq_true, decide_eq_true_eq]
      exact ⟨⟨⟨by omega, h.1.1.2⟩, h.1.2⟩, h.2⟩
    · split
      · next hab => exact Memory.consCell_wfFrom (hab ▸ h.2) hl ha
      · simp only [Memory.wfFrom, Bool.and_eq_true, decide_eq_true_eq]
        exact ⟨h.1, ih h.2 (by omega)⟩

/-- A write inside BUF keeps the canonical form. -/
theorem Memory.write_wf {a : Nat} {v : Byte} {m : Memory} (hm : Memory.wf m = true) (ha : a < 64) :
    Memory.wf (Memory.write m a v) = true := Memory.write_wfFrom hm (Nat.zero_le a) ha

theorem Memory.read_consCell {a x : Nat} {v : Byte} {m : Memory} (hm : Memory.wfFrom (a + 1) m = true) :
    Memory.read (Memory.consCell a v m) x = if x = a then v else Memory.read m x := by
  unfold Memory.consCell
  split
  · next hv =>
    split
    · next hx => rw [hv, hx]; exact Memory.read_below hm (by omega)
    · rfl
  · simp [Memory.read, eq_comm]

/-- A byte read after a byte written: the byte at its own index, the others as before. -/
theorem Memory.read_writeFrom {lo a x : Nat} {v : Byte} {m : Memory} (hm : Memory.wfFrom lo m = true) :
    Memory.read (Memory.write m a v) x = if x = a then v else Memory.read m x := by
  induction m generalizing lo with
  | nil => exact Memory.read_consCell rfl
  | cons c rest ih =>
    obtain ⟨b, w⟩ := c
    have h := hm
    simp only [Memory.wfFrom, Bool.and_eq_true, decide_eq_true_eq] at h
    simp only [Memory.write]
    split
    · refine Memory.read_consCell ?_
      simp only [Memory.wfFrom, Bool.and_eq_true, decide_eq_true_eq]
      exact ⟨⟨⟨by omega, h.1.1.2⟩, h.1.2⟩, h.2⟩
    · split
      · next hab =>
        subst hab
        rw [Memory.read_consCell h.2]
        by_cases hx : x = a
        · simp [hx]
        · simp [hx, Memory.read, Ne.symm hx]
      · next hab =>
        by_cases hx : b = x
        · have : x ≠ a := by omega
          simp [Memory.read, hx, this]
        · simp [Memory.read, hx, ih h.2]

theorem Memory.read_write {a x : Nat} {v : Byte} {m : Memory} (hm : Memory.wf m = true) :
    Memory.read (Memory.write m a v) x = if x = a then v else Memory.read m x := Memory.read_writeFrom hm

/-- Bytes written inside BUF keep the canonical form. -/
theorem Memory.writeBytes_wf {a : Nat} {bytes : List Byte} {m : Memory} (hm : Memory.wf m = true)
    (ha : a + bytes.length ≤ 64) : Memory.wf (Memory.writeBytes m a bytes) = true := by
  induction bytes generalizing m a with
  | nil => exact hm
  | cons v rest ih =>
    simp only [List.length_cons] at ha
    exact ih (Memory.write_wf hm (by omega)) (by omega)

/-- A byte read after bytes written. -/
theorem Memory.read_writeBytes {a x : Nat} {bytes : List Byte} {m : Memory} (hm : Memory.wf m = true)
    (ha : a + bytes.length ≤ 64) :
    Memory.read (Memory.writeBytes m a bytes) x =
      if a ≤ x ∧ x < a + bytes.length then bytes.getD (x - a) 0 else Memory.read m x := by
  induction bytes generalizing m a with
  | nil =>
    have h : ¬(a ≤ x ∧ x < a + ([] : List Byte).length) := by simp
    rw [Memory.writeBytes, if_neg h]
  | cons v rest ih =>
    simp only [List.length_cons] at ha
    rw [Memory.writeBytes, ih (Memory.write_wf hm (by omega)) (by omega), Memory.read_write hm]
    simp only [List.length_cons]
    by_cases h1 : a + 1 ≤ x ∧ x < a + 1 + rest.length
    · have h2 : a ≤ x ∧ x < a + (rest.length + 1) := by omega
      obtain ⟨k, hk⟩ : ∃ k, x - a = k + 1 := ⟨x - a - 1, by omega⟩
      have h3 : x - (a + 1) = k := by omega
      rw [if_pos h1, if_pos h2, h3, hk, List.getD_cons_succ]
    · by_cases h2 : x = a
      · subst h2
        simp
      · have h3 : ¬(a ≤ x ∧ x < a + (rest.length + 1)) := by omega
        rw [if_neg h1, if_neg h3, if_neg h2]

@[simp] theorem Memory.readBytes_length (m : Memory) (a n : Nat) : (Memory.readBytes m a n).length = n := by
  simp [Memory.readBytes]

theorem Memory.readBytes_getElem? (m : Memory) (a n i : Nat) :
    (Memory.readBytes m a n)[i]? = if i < n then some (Memory.read m (a + i)) else none := by
  by_cases h : i < n <;> simp [Memory.readBytes, h]

/-- Two stretches read one after the other. -/
theorem Memory.readBytes_append (m : Memory) (a n k : Nat) :
    Memory.readBytes m a (n + k) = Memory.readBytes m a n ++ Memory.readBytes m (a + n) k := by
  simp [Memory.readBytes, List.range_add, Nat.add_assoc]

/-- Bytes outside a write read as before. -/
theorem Memory.readBytes_writeBytes_outside {a x n : Nat} {bytes : List Byte} {m : Memory}
    (hm : Memory.wf m = true) (ha : a + bytes.length ≤ 64) (hx : x + n ≤ a ∨ a + bytes.length ≤ x) :
    Memory.readBytes (Memory.writeBytes m a bytes) x n = Memory.readBytes m x n := by
  refine List.map_congr_left fun i hi => ?_
  have hi := List.mem_range.mp hi
  rw [Memory.read_writeBytes hm ha, if_neg (by omega)]

/-- The bytes of a write read back. -/
theorem Memory.readBytes_writeBytes_same {a : Nat} {bytes : List Byte} {m : Memory} (hm : Memory.wf m = true)
    (ha : a + bytes.length ≤ 64) : Memory.readBytes (Memory.writeBytes m a bytes) a bytes.length = bytes := by
  refine List.ext_getElem (by simp) fun i h1 h2 => ?_
  simp only [Memory.readBytes, List.getElem_map, List.getElem_range]
  rw [Memory.read_writeBytes hm ha, if_pos (by omega), Nat.add_sub_cancel_left]
  simp [List.getD_eq_getElem?_getD, h2]

/-- Everything `memRead` can do: the bytes, or the fault when they do not lie in BUF. -/
theorem memRead_cases (addr n : Nat) (s : State) :
    (addr + n ≤ 64 ∧ memRead addr n s = .ok (s.buf.readBytes addr n)) ∨
      (64 < addr + n ∧ memRead addr n s = .error .bufferBounds) := by
  unfold memRead
  split
  · exact .inl ⟨‹_›, rfl⟩
  · exact .inr ⟨by omega, rfl⟩

/-- Everything `memWrite` can do: the buffer changed alone, or the fault when the bytes do not lie in BUF. -/
theorem memWrite_cases (addr : Nat) (bytes : List Byte) (s : State) :
    (addr + bytes.length ≤ 64 ∧ memWrite addr bytes s = .ok (s.setBuf (s.buf.writeBytes addr bytes))) ∨
      (64 < addr + bytes.length ∧ memWrite addr bytes s = .error .bufferBounds) := by
  unfold memWrite
  split
  · exact .inl ⟨‹_›, rfl⟩
  · exact .inr ⟨by omega, rfl⟩

theorem memRead_ok {addr n : Nat} (s : State) (h : addr + n ≤ 64) :
    memRead addr n s = .ok (s.buf.readBytes addr n) := by simp [memRead, h]

theorem memWrite_ok {addr : Nat} {bytes : List Byte} (s : State) (h : addr + bytes.length ≤ 64) :
    memWrite addr bytes s = .ok (s.setBuf (s.buf.writeBytes addr bytes)) := by simp [memWrite, h]

/-- The free bytes of an unspecified BUF are in canonical form. -/
theorem freeBuffer_wf (s : State) : Memory.wf (freeBuffer s) = true := by
  unfold freeBuffer
  exact Memory.writeBytes_wf rfl (by simp)

end Sys2Proof.Machine
end

