-- ==== Sys2Proof/Laws/Ops.lean ====
section
/-! SUPPORT. What the shared operations over registers do: taking a fault, the fault checks, the spent context, the
forgotten working registers, the hardware reset. -/

namespace Sys2Proof.Machine

/-- A fault writes its record and nothing else (R196). -/
theorem raiseFault_eq (c : Cause) (s : State) :
    raiseFault c s = { s with fault := true, cause := if s.fault then s.cause else c } := rfl

/-- The first fault wins (R197). -/
theorem raiseFault_of_fault {c : Cause} {s : State} (h : s.fault = true) : raiseFault c s = s := by
  cases s
  simp_all [raiseFault, State.setRecord]

/-- Everything the fault checks can answer (R192, R193, R195). -/
theorem faultCheck_cases (s : State) :
    (s.phase ≠ .active ∧ faultCheck s = some .seqFault) ∨
      (s.phase = .active ∧ 64 ≤ s.cnt.toNat ∧ faultCheck s = some .cntFault) ∨
      (s.phase = .active ∧ s.cnt.toNat < 64 ∧ faultCheck s = none) := by
  unfold faultCheck
  by_cases hp : s.phase = .active
  · by_cases hc : 64 ≤ s.cnt.toNat
    · simp [hp, hc]
    · simp [hp, hc]
      omega
  · simp [hp]

/-- A command that can fault runs its pseudocode in phase ACTIVE with CNT below 64 (R150). -/
theorem guarded_runs {body : State → Except Fault State} {s s' : State} (hp : s.phase = .active)
    (hc : s.cnt.toNat < 64) (hb : body s = .ok s') : guarded body s = .next s' := by
  have hf : faultCheck s = none := by simp [faultCheck, hp, hc]
  simp [guarded, hf, hb]

/-- Everything a command that can fault can do. -/
theorem guarded_cases {body : State → Except Fault State} {s t : State} (h : guarded body s = .next t) :
    (∃ c, faultCheck s = some c ∧ t = raiseFault c s) ∨ (faultCheck s = none ∧ body s = .ok t) := by
  unfold guarded at h
  split at h
  · next c hc => exact .inl ⟨c, hc, by simpa using h.symm⟩
  · next hc =>
    split at h
    · next s' hb => exact .inr ⟨hc, by simp_all⟩
    · cases h

/-- A spent context has CNT in its legal range (R27). -/
theorem spendContext_count (s : State) : (spendContext s).cnt.toNat < 64 := by
  have h := (Config.freeCount s).isLt
  rw [spendContext_cnt, BitVec.toNat_setWidth]
  omega

/-- A spent context has BUF in canonical form. -/
theorem spendContext_wf (s : State) : Memory.wf (spendContext s).buf = true := by
  rw [spendContext_buf]
  exact freeBuffer_wf s

/-- What the hardware reset gives a value (R220). -/
theorem hardwareReset_clears (s : State) :
    (hardwareReset s).phase = .idle ∧ (hardwareReset s).fault = false ∧ (hardwareReset s).cause = .none ∧
      (hardwareReset s).agent = .ctl ∧ (hardwareReset s).input = s.input ∧
      Memory.wf (hardwareReset s).buf = true :=
  ⟨rfl, rfl, rfl, rfl, rfl, by simp [hardwareReset, freeBuffer_wf]⟩

end Sys2Proof.Machine
end

