-- ==== Sys2Proof/Laws/Compressor.lean ====
section
/-! SUPPORT. What CMP does: the steps as one fold, COMPRESS on the machine as the pure function Compress, and what
neither touches. -/

namespace Sys2Proof.Machine

@[simp] theorem machineStep_h (f : Word → Word → Word → Word) (t : BitVec 6) (s : State) : (machineStep f t s).h = s.h := rfl
@[simp] theorem machineStep_buf (f : Word → Word → Word → Word) (t : BitVec 6) (s : State) : (machineStep f t s).buf = s.buf := rfl
@[simp] theorem machineStep_cnt (f : Word → Word → Word → Word) (t : BitVec 6) (s : State) : (machineStep f t s).cnt = s.cnt := rfl
@[simp] theorem machineStep_len (f : Word → Word → Word → Word) (t : BitVec 6) (s : State) : (machineStep f t s).len = s.len := rfl
@[simp] theorem machineStep_phase (f : Word → Word → Word → Word) (t : BitVec 6) (s : State) : (machineStep f t s).phase = s.phase := rfl
@[simp] theorem machineStep_fault (f : Word → Word → Word → Word) (t : BitVec 6) (s : State) : (machineStep f t s).fault = s.fault := rfl
@[simp] theorem machineStep_cause (f : Word → Word → Word → Word) (t : BitVec 6) (s : State) : (machineStep f t s).cause = s.cause := rfl
@[simp] theorem machineStep_work (f : Word → Word → Word → Word) (t : BitVec 6) (s : State) : (machineStep f t s).work = kindStep f s.blockIn t s.work := rfl
@[simp] theorem machineStep_t (f : Word → Word → Word → Word) (t : BitVec 6) (s : State) : (machineStep f t s).t = nextIndex t := rfl
@[simp] theorem machineStep_stateIn (f : Word → Word → Word → Word) (t : BitVec 6) (s : State) : (machineStep f t s).stateIn = s.stateIn := rfl
@[simp] theorem machineStep_blockIn (f : Word → Word → Word → Word) (t : BitVec 6) (s : State) : (machineStep f t s).blockIn = s.blockIn := rfl
@[simp] theorem machineStep_stateOut (f : Word → Word → Word → Word) (t : BitVec 6) (s : State) : (machineStep f t s).stateOut = s.stateOut := rfl
@[simp] theorem machineStep_agent (f : Word → Word → Word → Word) (t : BitVec 6) (s : State) : (machineStep f t s).agent = s.agent := rfl
@[simp] theorem machineStep_input (f : Word → Word → Word → Word) (t : BitVec 6) (s : State) : (machineStep f t s).input = s.input := rfl
@[simp] theorem machineStep_draws (f : Word → Word → Word → Word) (t : BitVec 6) (s : State) : (machineStep f t s).draws = s.draws := rfl

@[simp] theorem beginCompress_h (q : QuadPort) (b : Block) (s : State) : (beginCompress q b s).h = s.h := rfl
@[simp] theorem beginCompress_buf (q : QuadPort) (b : Block) (s : State) : (beginCompress q b s).buf = s.buf := rfl
@[simp] theorem beginCompress_cnt (q : QuadPort) (b : Block) (s : State) : (beginCompress q b s).cnt = s.cnt := rfl
@[simp] theorem beginCompress_len (q : QuadPort) (b : Block) (s : State) : (beginCompress q b s).len = s.len := rfl
@[simp] theorem beginCompress_phase (q : QuadPort) (b : Block) (s : State) : (beginCompress q b s).phase = s.phase := rfl
@[simp] theorem beginCompress_fault (q : QuadPort) (b : Block) (s : State) : (beginCompress q b s).fault = s.fault := rfl
@[simp] theorem beginCompress_cause (q : QuadPort) (b : Block) (s : State) : (beginCompress q b s).cause = s.cause := rfl
@[simp] theorem beginCompress_work (q : QuadPort) (b : Block) (s : State) : (beginCompress q b s).work = quadOfBits q := rfl
@[simp] theorem beginCompress_t (q : QuadPort) (b : Block) (s : State) : (beginCompress q b s).t = 0 := rfl
@[simp] theorem beginCompress_stateIn (q : QuadPort) (b : Block) (s : State) : (beginCompress q b s).stateIn = q := rfl
@[simp] theorem beginCompress_blockIn (q : QuadPort) (b : Block) (s : State) : (beginCompress q b s).blockIn = b := rfl
@[simp] theorem beginCompress_stateOut (q : QuadPort) (b : Block) (s : State) : (beginCompress q b s).stateOut = s.stateOut := rfl
@[simp] theorem beginCompress_agent (q : QuadPort) (b : Block) (s : State) : (beginCompress q b s).agent = .cmp := rfl
@[simp] theorem beginCompress_input (q : QuadPort) (b : Block) (s : State) : (beginCompress q b s).input = s.input := rfl
@[simp] theorem beginCompress_draws (q : QuadPort) (b : Block) (s : State) : (beginCompress q b s).draws = s.draws := rfl

@[simp] theorem endCompress_h (s : State) : (endCompress s).h = s.h := rfl
@[simp] theorem endCompress_buf (s : State) : (endCompress s).buf = s.buf := rfl
@[simp] theorem endCompress_cnt (s : State) : (endCompress s).cnt = s.cnt := rfl
@[simp] theorem endCompress_len (s : State) : (endCompress s).len = s.len := rfl
@[simp] theorem endCompress_phase (s : State) : (endCompress s).phase = s.phase := rfl
@[simp] theorem endCompress_fault (s : State) : (endCompress s).fault = s.fault := rfl
@[simp] theorem endCompress_cause (s : State) : (endCompress s).cause = s.cause := rfl
@[simp] theorem endCompress_work (s : State) : (endCompress s).work = freeQuad s 0 := rfl
@[simp] theorem endCompress_t (s : State) : (endCompress s).t = s.t := rfl
@[simp] theorem endCompress_stateIn (s : State) : (endCompress s).stateIn = s.stateIn := rfl
@[simp] theorem endCompress_blockIn (s : State) : (endCompress s).blockIn = s.blockIn := rfl
@[simp] theorem endCompress_stateOut (s : State) : (endCompress s).stateOut = quadBits (feedForward (quadOfBits s.stateIn) s.work) := rfl
@[simp] theorem endCompress_agent (s : State) : (endCompress s).agent = .ctl := rfl
@[simp] theorem endCompress_input (s : State) : (endCompress s).input = s.input := rfl
@[simp] theorem endCompress_draws (s : State) : (endCompress s).draws = s.draws + 1 := rfl

@[simp] theorem finishSteps_h (s : State) : (finishSteps s).h = s.h := by
  unfold finishSteps; rfl
@[simp] theorem finishSteps_buf (s : State) : (finishSteps s).buf = s.buf := by
  unfold finishSteps; rfl
@[simp] theorem finishSteps_cnt (s : State) : (finishSteps s).cnt = s.cnt := by
  unfold finishSteps; rfl
@[simp] theorem finishSteps_len (s : State) : (finishSteps s).len = s.len := by
  unfold finishSteps; rfl
@[simp] theorem finishSteps_phase (s : State) : (finishSteps s).phase = s.phase := by
  unfold finishSteps; rfl
@[simp] theorem finishSteps_fault (s : State) : (finishSteps s).fault = s.fault := by
  unfold finishSteps; rfl
@[simp] theorem finishSteps_cause (s : State) : (finishSteps s).cause = s.cause := by
  unfold finishSteps; rfl
@[simp] theorem finishSteps_work (s : State) : (finishSteps s).work = runAllSteps s.work s.blockIn := by
  unfold finishSteps; rfl
@[simp] theorem finishSteps_t (s : State) : (finishSteps s).t = 64 := by
  unfold finishSteps; rfl
@[simp] theorem finishSteps_stateIn (s : State) : (finishSteps s).stateIn = s.stateIn := by
  unfold finishSteps; rfl
@[simp] theorem finishSteps_blockIn (s : State) : (finishSteps s).blockIn = s.blockIn := by
  unfold finishSteps; rfl
@[simp] theorem finishSteps_stateOut (s : State) : (finishSteps s).stateOut = s.stateOut := by
  unfold finishSteps; rfl
@[simp] theorem finishSteps_agent (s : State) : (finishSteps s).agent = s.agent := by
  unfold finishSteps; rfl
@[simp] theorem finishSteps_input (s : State) : (finishSteps s).input = s.input := by
  unfold finishSteps; rfl
@[simp] theorem finishSteps_draws (s : State) : (finishSteps s).draws = s.draws := by
  unfold finishSteps; rfl

/-- COMPRESS on the machine, said once: the result port, the operand ports, T, the agent; the working registers are
free words; nothing else is touched (R110, R120, R22). -/
theorem runCompress_eq (p : QuadPort) (blk : Block) (s : State) :
    ∃ w, runCompress p blk s =
      { s with
        stateIn := p, blockIn := blk, stateOut := quadBits (compress (quadOfBits p) blk), t := 64, agent := .ctl, work := w,
        draws := s.draws + 1 } := by
  refine ⟨freeQuad (finishSteps (beginCompress p blk s)) 0, ?_⟩
  unfold runCompress compress
  ext1 <;> simp

/-- `H <- Compress(H, blk)` on the machine, said once: H, the ports of CMP, T and the agent; the working registers
are free words; BUF, CNT, LEN, PHASE, the fault record and what is presented are not touched. -/
theorem compressHash_eq (bytes : List Byte) (s : State) :
    ∃ w, compressHash bytes s =
      { s with h := compress s.h (blockOfBytes bytes), stateIn := quadBits s.h, blockIn := blockOfBytes bytes,
               stateOut := quadBits (compress s.h (blockOfBytes bytes)), t := 64, agent := .ctl, work := w,
               draws := s.draws + 1 } := by
  obtain ⟨w, hw⟩ := runCompress_eq (quadBits s.h) (blockOfBytes bytes) s
  exact ⟨w, by unfold compressHash; simp only [hw, State.setH, quadOfBits_quadBits]⟩

section
variable (bytes : List Byte) (s : State)

@[simp] theorem compressHash_h : (compressHash bytes s).h = compress s.h (blockOfBytes bytes) := by
  obtain ⟨w, hw⟩ := compressHash_eq bytes s
  rw [hw]

@[simp] theorem compressHash_buf : (compressHash bytes s).buf = s.buf := by
  obtain ⟨w, hw⟩ := compressHash_eq bytes s
  rw [hw]

@[simp] theorem compressHash_cnt : (compressHash bytes s).cnt = s.cnt := by
  obtain ⟨w, hw⟩ := compressHash_eq bytes s
  rw [hw]

@[simp] theorem compressHash_len : (compressHash bytes s).len = s.len := by
  obtain ⟨w, hw⟩ := compressHash_eq bytes s
  rw [hw]

@[simp] theorem compressHash_phase : (compressHash bytes s).phase = s.phase := by
  obtain ⟨w, hw⟩ := compressHash_eq bytes s
  rw [hw]

@[simp] theorem compressHash_fault : (compressHash bytes s).fault = s.fault := by
  obtain ⟨w, hw⟩ := compressHash_eq bytes s
  rw [hw]

@[simp] theorem compressHash_cause : (compressHash bytes s).cause = s.cause := by
  obtain ⟨w, hw⟩ := compressHash_eq bytes s
  rw [hw]

@[simp] theorem compressHash_input : (compressHash bytes s).input = s.input := by
  obtain ⟨w, hw⟩ := compressHash_eq bytes s
  rw [hw]

@[simp] theorem compressHash_stateIn : (compressHash bytes s).stateIn = quadBits s.h := by
  obtain ⟨w, hw⟩ := compressHash_eq bytes s
  rw [hw]

@[simp] theorem compressHash_blockIn : (compressHash bytes s).blockIn = blockOfBytes bytes := by
  obtain ⟨w, hw⟩ := compressHash_eq bytes s
  rw [hw]

@[simp] theorem compressHash_stateOut :
    (compressHash bytes s).stateOut = quadBits (compress s.h (blockOfBytes bytes)) := by
  obtain ⟨w, hw⟩ := compressHash_eq bytes s
  rw [hw]

@[simp] theorem compressHash_t : (compressHash bytes s).t = 64 := by
  obtain ⟨w, hw⟩ := compressHash_eq bytes s
  rw [hw]

@[simp] theorem compressHash_agent : (compressHash bytes s).agent = .ctl := by
  obtain ⟨w, hw⟩ := compressHash_eq bytes s
  rw [hw]

end

theorem foldBlocks_zero (h : Quad) (bytes : List Byte) : foldBlocks 0 h bytes = h := by
  simp only [foldBlocks, splitBlocks, List.foldl_nil]

theorem foldBlocks_succ (n : Nat) (h : Quad) (bytes : List Byte) :
    foldBlocks (n + 1) h bytes = foldBlocks n (compress h (blockOfBytes (bytes.take 64))) (bytes.drop 64) := by
  simp only [foldBlocks, splitBlocks, List.foldl_cons]

/-- The fold over blocks in two parts. -/
theorem foldBlocks_add (n k : Nat) (h : Quad) (bytes : List Byte) :
    foldBlocks (n + k) h bytes = foldBlocks k (foldBlocks n h bytes) (bytes.drop (64 * n)) := by
  induction n generalizing h bytes with
  | zero => rw [Nat.zero_add, foldBlocks_zero, Nat.mul_zero, List.drop_zero]
  | succ n ih =>
    have e : 64 * (n + 1) = 64 + 64 * n := by ring
    rw [show n + 1 + k = n + k + 1 by omega, foldBlocks_succ, ih, List.drop_drop, foldBlocks_succ, e]

/-- The fold reads no byte past its blocks. -/
theorem foldBlocks_take {n : Nat} {h : Quad} {a b : List Byte} (hab : a.take (64 * n) = b.take (64 * n)) :
    foldBlocks n h a = foldBlocks n h b := by
  induction n generalizing h a b with
  | zero => rw [foldBlocks_zero, foldBlocks_zero]
  | succ n ih =>
    have e : 64 * (n + 1) = 64 + 64 * n := by ring
    have h1 : a.take 64 = b.take 64 := by
      have := congrArg (List.take 64) hab
      rwa [List.take_take, List.take_take, Nat.min_eq_left (by omega)] at this
    have h2 : (a.drop 64).take (64 * n) = (b.drop 64).take (64 * n) := by
      have := congrArg (List.drop 64) hab
      rwa [e, List.drop_take, List.drop_take, Nat.add_sub_cancel_left] at this
    rw [foldBlocks_succ, foldBlocks_succ, h1, ih h2]

end Sys2Proof.Machine
end

