-- ==== Sys2Proof/Laws/Controller.lean ====
section
/-! SUPPORT. What the four steps of UPDATE and the two parts of FINAL do, each said once: in bounds, never a stop when
CNT is below 64, and with which registers (spec/41_controller.md R153, R156; spec/20_memory.md R60). -/

namespace Sys2Proof.Machine

/-- A full buffer flushed (R27, R153). -/
theorem flushBuffer_eq (s : State) :
    flushBuffer s = .ok ((compressHash (s.buf.readBytes 0 64) s).setCnt 0) := by
  unfold flushBuffer
  rw [memRead_ok (addr := 0) (n := 64) s (by decide)]
  rfl

/-- Step 2 of UPDATE with nothing pending does nothing. -/
theorem topUp_empty {data : List Byte} {s : State} (h : s.cnt.toNat = 0) : topUp data s = .ok (s, data) := by
  simp [topUp, h]

/-- Step 2 of UPDATE when the payload does not complete the block. -/
theorem topUp_partial {data : List Byte} {s : State} (h0 : 0 < s.cnt.toNat)
    (h : s.cnt.toNat + data.length < 64) :
    topUp data s = .ok ((s.setBuf (s.buf.writeBytes s.cnt.toNat data)).setCnt
      (BitVec.ofNat 7 (s.cnt.toNat + data.length)), []) := by
  have hk : min (64 - s.cnt.toNat) data.length = data.length := by omega
  have hc : s.cnt + BitVec.ofNat 7 data.length = BitVec.ofNat 7 (s.cnt.toNat + data.length) := by
    apply BitVec.eq_of_toNat_eq
    simp only [BitVec.toNat_add, BitVec.toNat_ofNat]
    omega
  have hn : ¬(BitVec.ofNat 7 (s.cnt.toNat + data.length)).toNat = 64 := by
    rw [BitVec.toNat_ofNat]
    omega
  unfold topUp
  rw [if_pos h0]
  simp only [hk, List.take_length, List.drop_length]
  rw [memWrite_ok s (by omega)]
  simp only [bind, Except.bind, pure, Except.pure, State.setBuf_cnt, State.setCnt_cnt, hc, hn, if_false]

/-- Step 2 of UPDATE when the payload completes the block. -/
theorem topUp_full {data : List Byte} {s : State} (h0 : 0 < s.cnt.toNat) (hc : s.cnt.toNat < 64)
    (h : 64 ≤ s.cnt.toNat + data.length) :
    ∃ u, topUp data s = .ok (u, data.drop (64 - s.cnt.toNat)) ∧
      u.buf = s.buf.writeBytes s.cnt.toNat (data.take (64 - s.cnt.toNat)) ∧
      u.h = compress s.h (blockOfBytes (u.buf.readBytes 0 64)) ∧
      u.cnt = 0 ∧ u.len = s.len ∧ u.phase = s.phase ∧ u.fault = s.fault ∧ u.cause = s.cause ∧
      u.input = s.input ∧ u.agent = .ctl ∧ u.t = 64 ∧ u.stateIn = quadBits s.h ∧
      u.blockIn = blockOfBytes (u.buf.readBytes 0 64) ∧ u.stateOut = quadBits u.h := by
  have hk : min (64 - s.cnt.toNat) data.length = 64 - s.cnt.toNat := by omega
  have hcnt : s.cnt + BitVec.ofNat 7 (64 - s.cnt.toNat) = 64 := by
    apply BitVec.eq_of_toNat_eq
    simp only [BitVec.toNat_add, BitVec.toNat_ofNat]
    show _ = 64
    omega
  have h64 : (64 : BitVec 7).toNat = 64 := rfl
  unfold topUp
  rw [if_pos h0]
  simp only [hk]
  rw [memWrite_ok s (by rw [List.length_take]; omega)]
  simp only [bind, Except.bind, pure, Except.pure, State.setBuf_cnt, State.setCnt_cnt, hcnt, h64, if_true,
    flushBuffer_eq]
  refine ⟨_, rfl, ?_, ?_, ?_, ?_, ?_, ?_, ?_, ?_, ?_, ?_, ?_, ?_, ?_⟩ <;> simp

/-- Step 3 of UPDATE, said once: H is the fold over the blocks; when there is a block CTL is to move and T is at 64;
nothing else that UPDATE is specified to leave changes. -/
theorem compressBlocks_spec (blocks : List (List Byte)) (s : State) :
    (compressBlocks blocks s).h = blocks.foldl (fun h b => compress h (blockOfBytes b)) s.h ∧
      (compressBlocks blocks s).buf = s.buf ∧ (compressBlocks blocks s).cnt = s.cnt ∧
      (compressBlocks blocks s).len = s.len ∧ (compressBlocks blocks s).phase = s.phase ∧
      (compressBlocks blocks s).fault = s.fault ∧ (compressBlocks blocks s).cause = s.cause ∧
      (compressBlocks blocks s).input = s.input ∧
      (blocks ≠ [] ∨ s.agent = .ctl → (compressBlocks blocks s).agent = .ctl) ∧
      (blocks ≠ [] ∨ s.t = 64 → (compressBlocks blocks s).t = 64) := by
  unfold compressBlocks
  induction blocks generalizing s with
  | nil => simp
  | cons b rest ih =>
    simp only [List.foldl_cons]
    obtain ⟨h1, h2, h3, h4, h5, h6, h7, h8, h9, h10⟩ := ih (compressHash b s)
    rw [compressHash_h] at h1
    rw [compressHash_buf] at h2
    rw [compressHash_cnt] at h3
    rw [compressHash_len] at h4
    rw [compressHash_phase] at h5
    rw [compressHash_fault] at h6
    rw [compressHash_cause] at h7
    rw [compressHash_input] at h8
    exact ⟨h1, h2, h3, h4, h5, h6, h7, h8, fun _ => h9 (.inr (compressHash_agent b s)),
      fun _ => h10 (.inr (compressHash_t b s))⟩

/-- Step 3 of UPDATE on one block or more leaves the last COMPRESS on the ports of CMP (R95). -/
theorem compressBlocks_ports (n : Nat) (bytes : List Byte) (s : State) :
    (compressBlocks (splitBlocks (n + 1) bytes) s).stateIn = quadBits (foldBlocks n s.h bytes) ∧
      (compressBlocks (splitBlocks (n + 1) bytes) s).blockIn = blockOfBytes ((bytes.drop (64 * n)).take 64) ∧
      (compressBlocks (splitBlocks (n + 1) bytes) s).stateOut =
        quadBits (compressBlocks (splitBlocks (n + 1) bytes) s).h := by
  induction n generalizing bytes s with
  | zero =>
    simp only [compressBlocks, splitBlocks, List.foldl_cons, List.foldl_nil, foldBlocks_zero]
    simp
  | succ n ih =>
    have h := ih (bytes.drop 64) (compressHash (bytes.take 64) s)
    rw [compressHash_h, ← foldBlocks_succ, List.drop_drop] at h
    rw [splitBlocks, compressBlocks, List.foldl_cons, ← compressBlocks]
    rwa [show 64 * (n + 1) = 64 + 64 * n by ring]

theorem compressBlocks_nil (s : State) : compressBlocks [] s = s := by
  unfold compressBlocks
  rw [List.foldl_nil]

theorem splitBlocks_ne_nil {n : Nat} (h : 0 < n) (bytes : List Byte) : splitBlocks n bytes ≠ [] := by
  obtain ⟨k, rfl⟩ : ∃ k, n = k + 1 := ⟨n - 1, by omega⟩
  simp [splitBlocks]

/-- Step 4 of UPDATE with the buffer empty. -/
theorem keepLeftover_eq {data : List Byte} {s : State} (h : data.length < 64) (hc : s.cnt = 0) :
    keepLeftover data s = .ok ((s.setBuf (s.buf.writeBytes 0 data)).setCnt (BitVec.ofNat 7 data.length)) := by
  unfold keepLeftover
  split
  · rw [memWrite_ok s (by omega)]
    rfl
  · have hd : data = [] := List.length_eq_zero_iff.mp (by omega)
    subst hd
    cases s
    simp_all [Memory.writeBytes, State.setBuf, State.setCnt]

/-- Steps 3 and 4 of UPDATE, on what step 2 left: the state, with the buffer empty, and the bytes not consumed. -/
theorem updateTail_spec {rest : List Byte} {s : State} (hc : s.cnt = 0) :
    ∃ u, keepLeftover (rest.drop (64 * (rest.length / 64))) (compressBlocks (splitBlocks (rest.length / 64) rest) s) =
        .ok u ∧
      u.h = foldBlocks (rest.length / 64) s.h rest ∧
      u.buf = s.buf.writeBytes 0 (rest.drop (64 * (rest.length / 64))) ∧
      u.cnt = BitVec.ofNat 7 (rest.length % 64) ∧ u.len = s.len ∧ u.phase = s.phase ∧ u.fault = s.fault ∧
      u.cause = s.cause ∧ u.input = s.input ∧
      (64 ≤ rest.length ∨ s.agent = .ctl → u.agent = .ctl) ∧ (64 ≤ rest.length ∨ s.t = 64 → u.t = 64) := by
  obtain ⟨h1, h2, h3, h4, h5, h6, h7, h8, h9, h10⟩ :=
    compressBlocks_spec (splitBlocks (rest.length / 64) rest) s
  have hlen : (rest.drop (64 * (rest.length / 64))).length = rest.length % 64 := by
    rw [List.length_drop]
    omega
  have hne : 64 ≤ rest.length → splitBlocks (rest.length / 64) rest ≠ [] :=
    fun h => splitBlocks_ne_nil (by omega) rest
  rw [keepLeftover_eq (by omega) (h3.trans hc)]
  refine ⟨_, rfl, ?_⟩
  simp only [State.setCnt_h, State.setBuf_h, State.setCnt_buf, State.setBuf_buf, State.setCnt_cnt, State.setCnt_len,
    State.setBuf_len, State.setCnt_phase, State.setBuf_phase, State.setCnt_fault, State.setBuf_fault,
    State.setCnt_cause, State.setBuf_cause, State.setCnt_input, State.setBuf_input, State.setCnt_agent,
    State.setBuf_agent, State.setCnt_t, State.setBuf_t, h1, h2, h4, h5, h6, h7, h8, hlen, foldBlocks]
  exact ⟨trivial, trivial, trivial, trivial, trivial, trivial, trivial, trivial,
    fun h => h9 (h.imp_left hne), fun h => h10 (h.imp_left hne)⟩

/-- UPDATE when it completes no block: LEN, the bytes written at CNT, CNT, and nothing else (R153). -/
theorem updateBody_partial {data : List Byte} {s : State} (h : s.cnt.toNat + data.length < 64) :
    updateBody data s = .ok { s with
      len := add64 s.len (bitCount data.length), buf := s.buf.writeBytes s.cnt.toNat data,
      cnt := BitVec.ofNat 7 (s.cnt.toNat + data.length) } := by
  unfold updateBody
  simp only
  rcases Nat.eq_zero_or_pos s.cnt.toNat with h0 | h0
  · have hz : s.cnt = 0 := BitVec.eq_of_toNat_eq h0
    have hn : data.length / 64 = 0 := by omega
    rw [topUp_empty (s := s.setLen _) (by simpa using h0)]
    simp only [bind, Except.bind, hn, splitBlocks, compressBlocks_nil, Nat.mul_zero, List.drop_zero]
    rw [keepLeftover_eq (by omega) (by simpa using hz), h0, Nat.zero_add]
    rfl
  · rw [topUp_partial (s := s.setLen _) (by simpa using h0) (by simpa using h)]
    simp only [bind, Except.bind, List.length_nil, Nat.zero_div, splitBlocks, compressBlocks_nil, List.drop_nil]
    unfold keepLeftover
    simp only [List.length_nil, lt_irrefl, if_false]
    rfl

/-- UPDATE with nothing pending: steps 3 and 4 alone. -/
theorem updateBody_fresh {data : List Byte} {s : State} (h0 : s.cnt.toNat = 0) :
    updateBody data s = keepLeftover (data.drop (64 * (data.length / 64)))
      (compressBlocks (splitBlocks (data.length / 64) data) (s.setLen (add64 s.len (bitCount data.length)))) := by
  unfold updateBody
  simp only
  rw [topUp_empty (s := s.setLen _) (by simpa using h0)]
  simp only [bind, Except.bind]

/-- UPDATE with bytes pending that it completes to a block: H, LEN, CNT and BUF; the rest that UPDATE is specified to
leave is as it was (R153). The buffer is compressed with the payload's first bytes in it, then the payload's blocks. -/
theorem updateBody_flushes {data : List Byte} {s : State} (h0 : 0 < s.cnt.toNat) (hc : s.cnt.toNat < 64)
    (h : 64 ≤ s.cnt.toNat + data.length) :
    ∃ u, updateBody data s = .ok u ∧
      u.h = foldBlocks ((s.cnt.toNat + data.length) / 64) s.h
        ((s.buf.writeBytes s.cnt.toNat (data.take (64 - s.cnt.toNat))).readBytes 0 64 ++
          data.drop (64 - s.cnt.toNat)) ∧
      u.buf = (s.buf.writeBytes s.cnt.toNat (data.take (64 - s.cnt.toNat))).writeBytes 0
        (data.drop (64 * ((s.cnt.toNat + data.length) / 64) - s.cnt.toNat)) ∧
      u.cnt = BitVec.ofNat 7 ((s.cnt.toNat + data.length) % 64) ∧
      u.len = add64 s.len (bitCount data.length) ∧ u.phase = s.phase ∧ u.fault = s.fault ∧
      u.cause = s.cause ∧ u.input = s.input ∧ u.agent = .ctl ∧ u.t = 64 := by
  unfold updateBody
  simp only
  obtain ⟨v, hv, hb, hh, hcnt, hl, hp, hf, hca, hi, ha, ht, -⟩ :=
    topUp_full (data := data) (s := s.setLen (add64 s.len (bitCount data.length))) (by simpa using h0)
      (by simpa using hc) (by simpa using h)
  simp only [State.setLen_cnt, State.setLen_buf, State.setLen_h, State.setLen_len, State.setLen_phase,
    State.setLen_fault, State.setLen_cause, State.setLen_input] at hv hb hh hl hp hf hca hi
  rw [hv]
  simp only [bind, Except.bind]
  obtain ⟨u, hu, h1, h2, h3, h4, h5, h6, h7, h8, h9, h10⟩ :=
    updateTail_spec (rest := data.drop (64 - s.cnt.toNat)) hcnt
  obtain ⟨n, hn⟩ : ∃ n, (s.cnt.toNat + data.length) / 64 = n + 1 :=
    ⟨(s.cnt.toNat + data.length) / 64 - 1, by omega⟩
  have hlen : (data.drop (64 - s.cnt.toNat)).length = s.cnt.toNat + data.length - 64 := by
    rw [List.length_drop]
    omega
  have hn' : (data.drop (64 - s.cnt.toNat)).length / 64 = n := by omega
  have hm : (data.drop (64 - s.cnt.toNat)).length % 64 = (s.cnt.toNat + data.length) % 64 := by omega
  have hr : (v.buf.readBytes 0 64).length = 64 := Memory.readBytes_length _ _ _
  refine ⟨u, hu, ?_, ?_, ?_, h4.trans hl, h5.trans hp, h6.trans hf, h7.trans hca, h8.trans hi, h9 (.inr ha),
    h10 (.inr ht)⟩
  · rw [h1, hn', hn, foldBlocks_succ, ← hb, List.take_left' hr, List.drop_left' hr, hh]
  · rw [h2, hb, hn', hn, List.drop_drop]
    congr 2
    omega
  · rw [h3, hm]

/-- UPDATE never stops when CNT is below 64 (R60, R153). -/
theorem updateBody_ok {data : List Byte} {s : State} (hc : s.cnt.toNat < 64) : ∃ u, updateBody data s = .ok u := by
  rcases Nat.eq_zero_or_pos s.cnt.toNat with h0 | h0
  · have hz : (s.setLen (add64 s.len (bitCount data.length))).cnt = 0 := by
      rw [State.setLen_cnt]
      exact BitVec.eq_of_toNat_eq h0
    obtain ⟨u, hu, -⟩ := updateTail_spec (rest := data) hz
    exact ⟨u, (updateBody_fresh h0).trans hu⟩
  · rcases Nat.lt_or_ge (s.cnt.toNat + data.length) 64 with h | h
    · exact ⟨_, updateBody_partial h⟩
    · exact (updateBody_flushes h0 hc h).imp fun _ hu => hu.1

/-- The first part of FINAL when the length field fits in the block. -/
theorem markTail_fits {s : State} (h : s.cnt.toNat ≤ 55) :
    markTail s = .ok (s.setBuf (s.buf.writeBytes s.cnt.toNat [markerByte]), s.cnt.toNat + 1) := by
  unfold markTail
  rw [memWrite_ok s (by simp; omega)]
  have hn : ¬64 - (s.cnt.toNat + 1) < 8 := by omega
  simp only [bind, Except.bind, hn, if_false]
  rfl

/-- The first part of FINAL when it does not: the block is filled with zeros and compressed. -/
theorem markTail_spills {s : State} (h : 55 < s.cnt.toNat) (hc : s.cnt.toNat < 64) :
    markTail s = .ok (compressHash
      (((s.buf.writeBytes s.cnt.toNat [markerByte]).writeBytes (s.cnt.toNat + 1)
        (zeroBytes (64 - (s.cnt.toNat + 1)))).readBytes 0 64)
      (s.setBuf ((s.buf.writeBytes s.cnt.toNat [markerByte]).writeBytes (s.cnt.toNat + 1)
        (zeroBytes (64 - (s.cnt.toNat + 1))))), 0) := by
  unfold markTail
  rw [memWrite_ok s (by simp; omega)]
  have hp : 64 - (s.cnt.toNat + 1) < 8 := by omega
  simp only [bind, Except.bind, hp, if_true]
  rw [memWrite_ok _ (by simp [zeroBytes]; omega)]
  simp only [memRead_ok (addr := 0) (n := 64) _ (by decide)]
  rfl

theorem le64_length (v : BitVec 64) : (le64 v).length = 8 := rfl

/-- The last block of FINAL filled from byte `p`. -/
theorem fillLastBlock_eq {p : Nat} {s : State} (hp : p ≤ 56) :
    fillLastBlock p s =
      .ok (s.setBuf ((s.buf.writeBytes p (zeroBytes (56 - p))).writeBytes 56 (le64 s.len))) := by
  unfold fillLastBlock
  rw [memWrite_ok s (by simp [zeroBytes]; omega)]
  simp only [bind, Except.bind]
  rw [memWrite_ok _ (by rw [le64_length])]
  rfl

/-- FINAL once the first part has left `p` bytes of the block in use. -/
theorem finalBody_eq {s u : State} {p : Nat} (hm : markTail s = .ok (u, p)) (hp : p ≤ 56) :
    finalBody s = .ok (spendContext ((compressHash
      (((u.buf.writeBytes p (zeroBytes (56 - p))).writeBytes 56 (le64 u.len)).readBytes 0 64)
      (u.setBuf ((u.buf.writeBytes p (zeroBytes (56 - p))).writeBytes 56 (le64 u.len)))).setPhase .done)) := by
  unfold finalBody
  rw [hm]
  simp only [bind, Except.bind]
  rw [fillLastBlock_eq hp]
  simp only [memRead_ok (addr := 0) (n := 64) _ (by decide), State.setBuf_buf]
  rfl

/-- FINAL never stops when CNT is below 64 (R60, R156). -/
theorem finalBody_ok {s : State} (hc : s.cnt.toNat < 64) : ∃ u, finalBody s = .ok u := by
  rcases Nat.lt_or_ge 55 s.cnt.toNat with h | h
  · exact ⟨_, finalBody_eq (markTail_spills h hc) (by omega)⟩
  · exact ⟨_, finalBody_eq (markTail_fits h) (by omega)⟩

end Sys2Proof.Machine
end

