-- ==== Sys2Proof/Laws/PerInstr.lean ====
section
/-! SUPPORT. The family RoundTrip, one lemma per constructor: the word that writes a well-formed instruction decodes to
it (spec/30_encoding.md R82, R83, R85, R86, R110). -/

namespace Sys2Proof.Laws.RoundTrip

/-- The words of a well-formed instruction decode to it and to nothing else. -/
def Statement (i : Instr) : Prop := i.wellFormed = true → (encode i).map decodeCode = [i]

/-- The beat of a payload byte decodes to the UPDATE of that byte (R83). -/
theorem updateBeat_decodes (v : Byte) : decodeBeat (updateBeat v) = .update [v] := by
  revert v
  decide +kernel

theorem update (data : List Byte) : Statement (.update data) := by
  intro h
  obtain ⟨v, rfl⟩ := List.length_eq_one_iff.mp (by simpa [Instr.wellFormed, payloadFitsOneBeat] using h)
  simp [encode, decodeCode, updateBeat_decodes]

theorem nop : Statement .nop := fun _ => rfl

theorem init : Statement .init := fun _ => rfl

theorem final : Statement .final := fun _ => rfl

theorem compress : Statement .compress := fun _ => rfl

theorem ff00 : Statement .ff00 := fun _ => rfl

theorem ff01 : Statement .ff01 := fun _ => rfl

theorem ff02 : Statement .ff02 := fun _ => rfl

theorem ff03 : Statement .ff03 := fun _ => rfl

theorem ff04 : Statement .ff04 := fun _ => rfl

theorem ff05 : Statement .ff05 := fun _ => rfl

theorem ff06 : Statement .ff06 := fun _ => rfl

theorem ff07 : Statement .ff07 := fun _ => rfl

theorem ff08 : Statement .ff08 := fun _ => rfl

theorem ff09 : Statement .ff09 := fun _ => rfl

theorem ff10 : Statement .ff10 := fun _ => rfl

theorem ff11 : Statement .ff11 := fun _ => rfl

theorem ff12 : Statement .ff12 := fun _ => rfl

theorem ff13 : Statement .ff13 := fun _ => rfl

theorem ff14 : Statement .ff14 := fun _ => rfl

theorem ff15 : Statement .ff15 := fun _ => rfl

theorem gg16 : Statement .gg16 := fun _ => rfl

theorem gg17 : Statement .gg17 := fun _ => rfl

theorem gg18 : Statement .gg18 := fun _ => rfl

theorem gg19 : Statement .gg19 := fun _ => rfl

theorem gg20 : Statement .gg20 := fun _ => rfl

theorem gg21 : Statement .gg21 := fun _ => rfl

theorem gg22 : Statement .gg22 := fun _ => rfl

theorem gg23 : Statement .gg23 := fun _ => rfl

theorem gg24 : Statement .gg24 := fun _ => rfl

theorem gg25 : Statement .gg25 := fun _ => rfl

theorem gg26 : Statement .gg26 := fun _ => rfl

theorem gg27 : Statement .gg27 := fun _ => rfl

theorem gg28 : Statement .gg28 := fun _ => rfl

theorem gg29 : Statement .gg29 := fun _ => rfl

theorem gg30 : Statement .gg30 := fun _ => rfl

theorem gg31 : Statement .gg31 := fun _ => rfl

theorem hh32 : Statement .hh32 := fun _ => rfl

theorem hh33 : Statement .hh33 := fun _ => rfl

theorem hh34 : Statement .hh34 := fun _ => rfl

theorem hh35 : Statement .hh35 := fun _ => rfl

theorem hh36 : Statement .hh36 := fun _ => rfl

theorem hh37 : Statement .hh37 := fun _ => rfl

theorem hh38 : Statement .hh38 := fun _ => rfl

theorem hh39 : Statement .hh39 := fun _ => rfl

theorem hh40 : Statement .hh40 := fun _ => rfl

theorem hh41 : Statement .hh41 := fun _ => rfl

theorem hh42 : Statement .hh42 := fun _ => rfl

theorem hh43 : Statement .hh43 := fun _ => rfl

theorem hh44 : Statement .hh44 := fun _ => rfl

theorem hh45 : Statement .hh45 := fun _ => rfl

theorem hh46 : Statement .hh46 := fun _ => rfl

theorem hh47 : Statement .hh47 := fun _ => rfl

theorem ii48 : Statement .ii48 := fun _ => rfl

theorem ii49 : Statement .ii49 := fun _ => rfl

theorem ii50 : Statement .ii50 := fun _ => rfl

theorem ii51 : Statement .ii51 := fun _ => rfl

theorem ii52 : Statement .ii52 := fun _ => rfl

theorem ii53 : Statement .ii53 := fun _ => rfl

theorem ii54 : Statement .ii54 := fun _ => rfl

theorem ii55 : Statement .ii55 := fun _ => rfl

theorem ii56 : Statement .ii56 := fun _ => rfl

theorem ii57 : Statement .ii57 := fun _ => rfl

theorem ii58 : Statement .ii58 := fun _ => rfl

theorem ii59 : Statement .ii59 := fun _ => rfl

theorem ii60 : Statement .ii60 := fun _ => rfl

theorem ii61 : Statement .ii61 := fun _ => rfl

theorem ii62 : Statement .ii62 := fun _ => rfl

theorem ii63 : Statement .ii63 := fun _ => rfl

end Sys2Proof.Laws.RoundTrip
end

