-- ==== Sys2Proof/Tests/Slice0.lean ====
section
/-! SUPPORT. The model's own tests: expected values are the spec's vectors (spec/95_test_vectors.md), its encodings and
its worked examples. Then, for every statement that has hypotheses, a witness that meets them. -/

namespace Sys2Proof.Tests

open Sys2Proof.Machine Sys2Proof.Spec

/-- What holds of the next state of an answer; false of a stop. -/
def answers (o : Host.Outcome State Fault Refusal) (p : State → Bool) : Bool :=
  match o with
  | .next t => p t
  | .fault _ => false
  | .refused _ => false

theorem next_of_answers {o : Host.Outcome State Fault Refusal} {p : State → Bool} (h : answers o p = true) :
    ∃ t, o = .next t ∧ p t = true := by
  cases o with
  | next t => exact ⟨t, rfl, h⟩
  | fault r => cases h
  | refused r => cases h

/-- Phase ACTIVE with these bytes pending and nothing compressed before. -/
def pending (bytes : List Byte) : State :=
  { State.reset with
    phase := .active, h := initialHash, buf := Memory.writeBytes [] 0 bytes
    cnt := BitVec.ofNat 7 bytes.length, len := bitCount bytes.length }

/-- `n` bytes 0x61. -/
def letters (n : Nat) : List Byte := List.replicate n 0x61

/-- A phase and a count, everything else as after reset. -/
def counted (p : Phase) (c : BitVec 7) : State := { State.reset with phase := p, cnt := c }

/-- The working registers and the empty-message block. -/
def working (q : Quad) : State :=
  { State.reset with work := q, blockIn := blockOfBytes (0x80 :: zeroBytes 63), agent := .cmp }

/-- Steps one after another, each from the registers listed for the one before it; T follows. -/
def chain (q : Quad) (t : Nat) : List (Instr × Quad) → Bool
  | [] => true
  | (i, r) :: rest =>
    answers (exec i (working q)) (fun u => u.work == r && u.t == BitVec.ofNat 7 (t + 1) && u.h == zeroQuad) &&
      chain r (t + 1) rest

/-- The beat-level check refuses an UPDATE that no single beat writes and takes the one-byte UPDATE (R82, R85). -/
theorem test_wellFormed_smoke :
    (Instr.update []).wellFormed = false ∧ (Instr.update [0x61, 0x62]).wellFormed = false ∧
      (Instr.update [0x61]).wellFormed = true ∧ Instr.final.wellFormed = true ∧
      payloadFitsOneBeat [] = false ∧ payloadFitsOneBeat [0, 0] = false := by
  decide

/-- Beats written bit by bit, opcode then data (R82, R83); a dirty data field is ignored but for UPDATE (R91). -/
theorem test_decode_beats :
    decodeBits .cmd 0b0000000000 = .ok .nop ∧ decodeBits .cmd 0b0010101010 = .ok .nop ∧
      decodeBits .cmd 0b0100000000 = .ok .init ∧ decodeBits .cmd 0b1000000000 = .ok (.update [0x00]) ∧
      decodeBits .cmd 0b1011111111 = .ok (.update [0xff]) ∧ decodeBits .cmd 0b1111111111 = .ok .final ∧
      decodeBits .cmd 0b10000000000 = .error (.beatTooWide 1024) := by
  decide

/-- The words of the opcode table: the patterns of its CMD rows, and COMPRESS with no bits. -/
theorem test_decode_table_words :
    decodeTableWord 16 0x000 = some .nop ∧ decodeTableWord 16 0x100 = some .init ∧
      decodeTableWord 16 0x261 = some (.update [0x61]) ∧ decodeTableWord 16 0x300 = some .final ∧
      decodeTableWord 0 0 = some .compress ∧ decodeTableWord 8 0x40 = none := by
  decide

/-- The step words of round 0, 0 to 15 in six bits (R86), each its own row of the opcode table. -/
theorem test_decode_FF_words :
    [(0b000000, .ff00), (0b000001, .ff01), (0b000010, .ff02), (0b000011, .ff03),
     (0b000100, .ff04), (0b000101, .ff05), (0b000110, .ff06), (0b000111, .ff07),
     (0b001000, .ff08), (0b001001, .ff09), (0b001010, .ff10), (0b001011, .ff11),
     (0b001100, .ff12), (0b001101, .ff13), (0b001110, .ff14), (0b001111, .ff15)].all
      (fun p : Nat × Instr => decodeBits .step p.1 == .ok p.2 && decodeTableWord 8 p.1 == some p.2) = true := by
  decide

/-- The step words of round 1, 16 to 31 in six bits (R86), each its own row of the opcode table. -/
theorem test_decode_GG_words :
    [(0b010000, .gg16), (0b010001, .gg17), (0b010010, .gg18), (0b010011, .gg19),
     (0b010100, .gg20), (0b010101, .gg21), (0b010110, .gg22), (0b010111, .gg23),
     (0b011000, .gg24), (0b011001, .gg25), (0b011010, .gg26), (0b011011, .gg27),
     (0b011100, .gg28), (0b011101, .gg29), (0b011110, .gg30), (0b011111, .gg31)].all
      (fun p : Nat × Instr => decodeBits .step p.1 == .ok p.2 && decodeTableWord 8 p.1 == some p.2) = true := by
  decide

/-- The step words of round 2, 32 to 47 in six bits (R86), each its own row of the opcode table. -/
theorem test_decode_HH_words :
    [(0b100000, .hh32), (0b100001, .hh33), (0b100010, .hh34), (0b100011, .hh35),
     (0b100100, .hh36), (0b100101, .hh37), (0b100110, .hh38), (0b100111, .hh39),
     (0b101000, .hh40), (0b101001, .hh41), (0b101010, .hh42), (0b101011, .hh43),
     (0b101100, .hh44), (0b101101, .hh45), (0b101110, .hh46), (0b101111, .hh47)].all
      (fun p : Nat × Instr => decodeBits .step p.1 == .ok p.2 && decodeTableWord 8 p.1 == some p.2) = true := by
  decide

/-- The step words of round 3, 48 to 63 in six bits (R86), each its own row of the opcode table. -/
theorem test_decode_II_words :
    [(0b110000, .ii48), (0b110001, .ii49), (0b110010, .ii50), (0b110011, .ii51),
     (0b110100, .ii52), (0b110101, .ii53), (0b110110, .ii54), (0b110111, .ii55),
     (0b111000, .ii56), (0b111001, .ii57), (0b111010, .ii58), (0b111011, .ii59),
     (0b111100, .ii60), (0b111101, .ii61), (0b111110, .ii62), (0b111111, .ii63)].all
      (fun p : Nat × Instr => decodeBits .step p.1 == .ok p.2 && decodeTableWord 8 p.1 == some p.2) = true := by
  decide

/-- Steps 0 to 15 on the empty-message block: the working registers after each, as V10 lists them. -/
def rowsFF : List (Instr × Quad) :=
  [(.ff00, ⟨0x10325476, 0xa5202774, 0xefcdab89, 0x98badcfe⟩),
   (.ff01, ⟨0x98badcfe, 0xf59592dd, 0xa5202774, 0xefcdab89⟩),
   (.ff02, ⟨0xefcdab89, 0xe7f06b23, 0xf59592dd, 0xa5202774⟩),
   (.ff03, ⟨0xa5202774, 0x1b163203, 0xe7f06b23, 0xf59592dd⟩),
   (.ff04, ⟨0xf59592dd, 0x32033344, 0x1b163203, 0xe7f06b23⟩),
   (.ff05, ⟨0xe7f06b23, 0x2f35d494, 0x32033344, 0x1b163203⟩),
   (.ff06, ⟨0x1b163203, 0xf5b158db, 0x2f35d494, 0x32033344⟩),
   (.ff07, ⟨0x32033344, 0x9bc13ce9, 0xf5b158db, 0x2f35d494⟩),
   (.ff08, ⟨0x2f35d494, 0x3893b991, 0x9bc13ce9, 0xf5b158db⟩),
   (.ff09, ⟨0xf5b158db, 0xfce4a312, 0x3893b991, 0x9bc13ce9⟩),
   (.ff10, ⟨0x9bc13ce9, 0xe1ef0576, 0xfce4a312, 0x3893b991⟩),
   (.ff11, ⟨0x3893b991, 0x70768a29, 0xe1ef0576, 0xfce4a312⟩),
   (.ff12, ⟨0xfce4a312, 0xf56c7cf1, 0x70768a29, 0xe1ef0576⟩),
   (.ff13, ⟨0xe1ef0576, 0x374943a7, 0xf56c7cf1, 0x70768a29⟩),
   (.ff14, ⟨0x70768a29, 0x5aa53f75, 0x374943a7, 0xf56c7cf1⟩),
   (.ff15, ⟨0xf56c7cf1, 0xd6819c6a, 0x5aa53f75, 0x374943a7⟩)]

/-- V10: each step takes the working registers before it to those after it, and T on (R113, R122 to R125). -/
theorem test_rows_FF : chain ⟨0x67452301, 0xefcdab89, 0x98badcfe, 0x10325476⟩ 0 rowsFF = true := by
  decide +kernel

/-- Steps 16 to 31 on the empty-message block: the working registers after each, as V10 lists them. -/
def rowsGG : List (Instr × Quad) :=
  [(.gg16, ⟨0x374943a7, 0x1c7d7513, 0xd6819c6a, 0x5aa53f75⟩),
   (.gg17, ⟨0x5aa53f75, 0x7bd57a3a, 0x1c7d7513, 0xd6819c6a⟩),
   (.gg18, ⟨0xd6819c6a, 0xc095f13a, 0x7bd57a3a, 0x1c7d7513⟩),
   (.gg19, ⟨0x1c7d7513, 0xbd782e17, 0xc095f13a, 0x7bd57a3a⟩),
   (.gg20, ⟨0x7bd57a3a, 0x3d1e3e6c, 0xbd782e17, 0xc095f13a⟩),
   (.gg21, ⟨0xc095f13a, 0x68b7b3e3, 0x3d1e3e6c, 0xbd782e17⟩),
   (.gg22, ⟨0xbd782e17, 0xeb41643e, 0x68b7b3e3, 0x3d1e3e6c⟩),
   (.gg23, ⟨0x3d1e3e6c, 0xe422531a, 0xeb41643e, 0x68b7b3e3⟩),
   (.gg24, ⟨0x68b7b3e3, 0x306ec122, 0xe422531a, 0xeb41643e⟩),
   (.gg25, ⟨0xeb41643e, 0xd28c77c2, 0x306ec122, 0xe422531a⟩),
   (.gg26, ⟨0xe422531a, 0xa3c663da, 0xd28c77c2, 0x306ec122⟩),
   (.gg27, ⟨0x306ec122, 0xa0572807, 0xa3c663da, 0xd28c77c2⟩),
   (.gg28, ⟨0xd28c77c2, 0x13707036, 0xa0572807, 0xa3c663da⟩),
   (.gg29, ⟨0xa3c663da, 0xae7813db, 0x13707036, 0xa0572807⟩),
   (.gg30, ⟨0xa0572807, 0x1c31c384, 0xae7813db, 0x13707036⟩),
   (.gg31, ⟨0x13707036, 0xa2205f1f, 0x1c31c384, 0xae7813db⟩)]

/-- V10: each step takes the working registers before it to those after it, and T on (R113, R122 to R125). -/
theorem test_rows_GG : chain ⟨0xf56c7cf1, 0xd6819c6a, 0x5aa53f75, 0x374943a7⟩ 16 rowsGG = true := by
  decide +kernel

/-- Steps 32 to 47 on the empty-message block: the working registers after each, as V10 lists them. -/
def rowsHH : List (Instr × Quad) :=
  [(.hh32, ⟨0xae7813db, 0xdf63eaa1, 0xa2205f1f, 0x1c31c384⟩),
   (.hh33, ⟨0x1c31c384, 0xc3689f5b, 0xdf63eaa1, 0xa2205f1f⟩),
   (.hh34, ⟨0xa2205f1f, 0x12f3e755, 0xc3689f5b, 0xdf63eaa1⟩),
   (.hh35, ⟨0xdf63eaa1, 0x004b6669, 0x12f3e755, 0xc3689f5b⟩),
   (.hh36, ⟨0xc3689f5b, 0x5f7a9b2e, 0x004b6669, 0x12f3e755⟩),
   (.hh37, ⟨0x12f3e755, 0xabc34e16, 0x5f7a9b2e, 0x004b6669⟩),
   (.hh38, ⟨0x004b6669, 0x91ca4cb7, 0xabc34e16, 0x5f7a9b2e⟩),
   (.hh39, ⟨0x5f7a9b2e, 0xc5dc8c15, 0x91ca4cb7, 0xabc34e16⟩),
   (.hh40, ⟨0xabc34e16, 0x4497169d, 0xc5dc8c15, 0x91ca4cb7⟩),
   (.hh41, ⟨0x91ca4cb7, 0x76fd93d4, 0x4497169d, 0xc5dc8c15⟩),
   (.hh42, ⟨0xc5dc8c15, 0xfd95f243, 0x76fd93d4, 0x4497169d⟩),
   (.hh43, ⟨0x4497169d, 0x0fe32453, 0xfd95f243, 0x76fd93d4⟩),
   (.hh44, ⟨0x76fd93d4, 0x3f55edfd, 0x0fe32453, 0xfd95f243⟩),
   (.hh45, ⟨0xfd95f243, 0x22a31f54, 0x3f55edfd, 0x0fe32453⟩),
   (.hh46, ⟨0x0fe32453, 0x68d84ea2, 0x22a31f54, 0x3f55edfd⟩),
   (.hh47, ⟨0x3f55edfd, 0xca7d2dbd, 0x68d84ea2, 0x22a31f54⟩)]

/-- V10: each step takes the working registers before it to those after it, and T on (R113, R122 to R125). -/
theorem test_rows_HH : chain ⟨0x13707036, 0xa2205f1f, 0x1c31c384, 0xae7813db⟩ 32 rowsHH = true := by
  decide +kernel

/-- Steps 48 to 63 on the empty-message block: the working registers after each, as V10 lists them. -/
def rowsII : List (Instr × Quad) :=
  [(.ii48, ⟨0x22a31f54, 0x93aa2577, 0xca7d2dbd, 0x68d84ea2⟩),
   (.ii49, ⟨0x68d84ea2, 0x1688dc85, 0x93aa2577, 0xca7d2dbd⟩),
   (.ii50, ⟨0xca7d2dbd, 0xcd85b8cb, 0x1688dc85, 0x93aa2577⟩),
   (.ii51, ⟨0x93aa2577, 0x561e0689, 0xcd85b8cb, 0x1688dc85⟩),
   (.ii52, ⟨0x1688dc85, 0x5625a114, 0x561e0689, 0xcd85b8cb⟩),
   (.ii53, ⟨0xcd85b8cb, 0x3450f42b, 0x5625a114, 0x561e0689⟩),
   (.ii54, ⟨0x561e0689, 0x392ad0d0, 0x3450f42b, 0x5625a114⟩),
   (.ii55, ⟨0x5625a114, 0x1e77fa61, 0x392ad0d0, 0x3450f42b⟩),
   (.ii56, ⟨0x3450f42b, 0x474a9c8c, 0x1e77fa61, 0x392ad0d0⟩),
   (.ii57, ⟨0x392ad0d0, 0xdfce00bc, 0x474a9c8c, 0x1e77fa61⟩),
   (.ii58, ⟨0x1e77fa61, 0x36594b14, 0xdfce00bc, 0x474a9c8c⟩),
   (.ii59, ⟨0x474a9c8c, 0x30130182, 0x36594b14, 0xdfce00bc⟩),
   (.ii60, ⟨0xdfce00bc, 0x7246fad3, 0x30130182, 0x36594b14⟩),
   (.ii61, ⟨0x36594b14, 0x6e10a476, 0x7246fad3, 0x30130182⟩),
   (.ii62, ⟨0x30130182, 0xff4ea3eb, 0x6e10a476, 0x7246fad3⟩),
   (.ii63, ⟨0x7246fad3, 0x14e45506, 0xff4ea3eb, 0x6e10a476⟩)]

/-- V10: each step takes the working registers before it to those after it, and T on (R113, R122 to R125). -/
theorem test_rows_II : chain ⟨0x3f55edfd, 0xca7d2dbd, 0x68d84ea2, 0x22a31f54⟩ 48 rowsII = true := by
  decide +kernel

/-- V11: the last step of each round on the "abc" block ends with the registers that the spec lists (R110). -/
theorem test_abc_rounds :
    let blk := blockOfBytes ([0x61, 0x62, 0x63, 0x80] ++ zeroBytes 52 ++ [0x18, 0, 0, 0, 0, 0, 0, 0])
    let after := fun n => (stepIndices.take n).foldl (fun q t => roundStep blk t q) initialHash
    after 16 = ⟨0xdda9b9a6, 0x72aff2e0, 0xe396856b, 0xa1051895⟩ ∧
      after 32 = ⟨0x790a77fb, 0x726342d3, 0xa62884aa, 0x9f47e4f8⟩ ∧
      after 48 = ⟨0x7f2e507b, 0x7beb9700, 0x8fae6399, 0x99d9679d⟩ ∧
      after 64 = ⟨0x310ade8f, 0xc08226b3, 0xe484b9d8, 0x624d8cb2⟩ := by
  decide +kernel

/-- V15, which uses every message word with a value of its own. -/
theorem test_compress_V15 :
    compress initialHash (blockOfBytes ((List.range 64).map (BitVec.ofNat 8))) =
      ⟨0x9144d9ca, 0xd901e4c9, 0x72fc5b38, 0x625ff51e⟩ := by
  decide +kernel

/-- V14, on ports written out by the layout of R95, word 3 in the highest bits: the stand-alone COMPRESS puts its
result on state_out and leaves H alone (R120). -/
theorem test_exec_compress_V14 :
    answers
      (exec .compress
        (State.reset.setPorts 0xffffffffffffffffffffffffffffffff (blockOfBytes (List.replicate 64 0xff))))
      (fun t => t.stateOut == 0xa9a0a3c18b9bb7d329ffd12a6cba9129 && t.h == zeroQuad) = true := by
  decide +kernel

/-- The layout of a 128-bit port on the initial constants (R95, R34), both ways. -/
theorem test_port_layout :
    quadBits initialHash = 0x1032547698badcfeefcdab8967452301 ∧
      quadOfBits 0x1032547698badcfeefcdab8967452301 = initialHash := by
  decide

/-- The tuned compressor gives V16 (R132). -/
theorem test_tuned_V16 :
    compressTuned initialHash (blockOfBytes (letters 64)) =
      ⟨0x89d4ff56, 0x125cd962, 0x69cade33, 0x0033e325⟩ := by
  decide +kernel

/-- V17. -/
theorem test_mixing_V17 :
    [mix 0, mix 1, mix 2, mix 3].map (fun f => f 0xff00ff00 0xf0f0f0f0 0xcccccccc) =
      [0xf0ccf0cc, 0xfc30fc30, 0xc33cc33c, 0x0fc30fc3] := by
  decide

/-- V18. -/
theorem test_arithmetic_V18 :
    add32 0xffffffff 0x00000080 = 0x0000007f ∧ add32 0x80000000 0x80000000 = 0 ∧
      rotl32 0xd76aa4f7 7 = 0xb5527beb ∧ rotl32 0x80000000 4 = 0x00000008 ∧ rotl32 0x00000001 23 = 0x00800000 ∧
      rotl32 0x12345678 16 = 0x56781234 ∧ not32 0 = 0xffffffff ∧ add64 0xfffffffffffffff0 24 = 8 := by
  decide

/-- V19. -/
theorem test_bytes_V19 :
    dec32 0x61 0x62 0x63 0x80 = 0x80636261 ∧ le32 0xd98c1dd4 = [0xd4, 0x1d, 0x8c, 0xd9] ∧
      le64 0x0123456789abcdef = [0xef, 0xcd, 0xab, 0x89, 0x67, 0x45, 0x23, 0x01] ∧
      serialise initialHash =
        [0x01, 0x23, 0x45, 0x67, 0x89, 0xab, 0xcd, 0xef, 0xfe, 0xdc, 0xba, 0x98, 0x76, 0x54, 0x32, 0x10] := by
  decide

/-- NOP after reset: unchanged (V35). -/
theorem test_nop : exec .nop State.reset = .next State.reset := rfl

/-- INIT with CNT at 64 in phase ACTIVE (V34, V35). -/
theorem test_init :
    answers (exec .init (counted .active 64))
      (fun t => t.h == initialHash && t.len == 0 && t.cnt == 0 && t.phase == .active && !t.fault) = true := by
  decide

/-- V31: one byte completes the block of 63, which is compressed (V16) with LEN wrapping (V40). -/
theorem test_update_flushes :
    answers (exec (.update [0x61]) ((pending (letters 63)).setLen 0xfffffffffffffff8))
      (fun t => t.h == ⟨0x89d4ff56, 0x125cd962, 0x69cade33, 0x0033e325⟩ && t.cnt == 0 && t.len == 0) = true := by
  decide +kernel

/-- P7 and V31: 65 bytes in one UPDATE compress a block and keep one byte. -/
theorem test_update_straight :
    answers (exec (.update (letters 65)) (pending []))
      (fun t => t.h == ⟨0x89d4ff56, 0x125cd962, 0x69cade33, 0x0033e325⟩ && t.cnt == 1 && t.len == 520 &&
        validBytes t == [0x61]) = true := by
  decide +kernel

/-- P2: FINAL of "abc", one block; the digest's bytes. -/
theorem test_final_one_block :
    answers (exec .final (pending [0x61, 0x62, 0x63]))
      (fun t => t.h == ⟨0x98500190, 0xb04fd23c, 0x7d3f96d6, 0x727fe128⟩ && t.phase == .done &&
        digestBytes t == [0x90, 0x01, 0x50, 0x98, 0x3c, 0xd2, 0x4f, 0xb0, 0xd6, 0x96, 0x3f, 0x7d, 0x28, 0xe1, 0x7f,
          0x72]) = true := by
  decide +kernel

/-- P4: FINAL with 56 bytes pending, two blocks. -/
theorem test_final_two_blocks :
    answers (exec .final (pending (letters 56)))
      (fun t => t.h == ⟨0xc78a0c3b, 0xb028f803, 0x70196c4c, 0x1872d106⟩ && t.phase == .done) = true := by
  decide +kernel

/-- V35: FINAL and UPDATE after reset, and a CNT of 64 or more in phase ACTIVE. -/
theorem test_faults_V35 :
    exec .final State.reset = .next (State.reset.setRecord true .seqFault) ∧
      exec (.update [0x71]) State.reset = .next (State.reset.setRecord true .seqFault) ∧
      exec (.update []) State.reset = .next State.reset ∧
      exec .final (counted .active 64) = .next ((counted .active 64).setRecord true .cntFault) ∧
      exec (.update [0x61]) (counted .active 100) = .next ((counted .active 100).setRecord true .cntFault) :=
  ⟨rfl, rfl, rfl, rfl, rfl⟩

/-- V35: the first fault wins, and PHASE is checked before CNT. -/
theorem test_fault_priority_V35 :
    exec .final ((counted .active 64).setRecord true .seqFault) =
        .next ((counted .active 64).setRecord true .seqFault) ∧
      exec .final (counted .done 64) = .next ((counted .done 64).setRecord true .seqFault) :=
  ⟨rfl, rfl⟩

/-- The opcode table's words run as the first instruction after reset. -/
theorem test_step_runs_placed_word :
    step (State.reset.withFetchWord 16 0x100) = exec .init State.reset ∧
      step (State.reset.withFetchWord 16 0x300) = exec .final State.reset ∧
      step (State.reset.withFetchWord 8 0b010011) = exec .gg19 ((State.reset.setT 19).setAgent .cmp) :=
  ⟨rfl, rfl, rfl⟩

/-- Bytes that a block carries come back in the words (R51), at both ends of the index range. -/
theorem test_message_words :
    messageWord (blockOfBytes ((List.range 64).map (BitVec.ofNat 8))) 0 = 0x03020100 ∧
      messageWord (blockOfBytes ((List.range 64).map (BitVec.ofNat 8))) 15 = 0x3f3e3d3c := by
  decide +kernel

/-! Witnesses. -/

/-- `DecodeOfEncodeIsTheInstruction`. -/
theorem witness_well_formed : (Instr.update [0x61]).wellFormed = true ∧ Instr.ii63.wellFormed = true := by
  decide

/-- `BlockBytesDecodeToMessageWords`, `MessageWordsAreSlicesOfTheBlockPort`, `LengthFieldFillsTheLastTwoWords`: byte
sequences of the lengths asked for, and indices at both ends. -/
theorem witness_byte_lengths :
    (letters 64).length = 64 ∧ (letters 60).length = 60 ∧ (letters 56).length = 56 ∧ 0 < 16 ∧ 15 < 16 ∧
      0 < 64 ∧ 63 < 64 := by
  decide

/-- `ByteWrittenIsSeenInItsWord`, at the first and the last index. -/
theorem witness_buffer_index :
    Memory.wf [] = true ∧ Memory.wf [(0, 1), (63, 2)] = true ∧ 0 < 64 ∧ 63 < 64 ∧ 0 ≠ 63 := by
  decide

/-- `RotationMovesEveryBitUp` and `MixingFunctionsFollowTheirTruthTables`, at both ends of each range. -/
theorem witness_rotation_range : 1 ≤ 1 ∧ 1 ≤ 31 ∧ 31 ≤ 31 ∧ 0 < 32 ∧ 31 < 32 := by
  decide

/-- `ConstantTablesAreTableT1` and the four `Steps…RunAsTheTableSays`: a row of each round. -/
theorem witness_rows :
    (Instr.ff00, 0, 0, 7, (0xd76aa478 : Word)) ∈ tableRows ∧ (Instr.ff00, 0, 0, 7, 0xd76aa478) ∈ roundZeroRows ∧
      (Instr.gg16, 16, 1, 5, 0xf61e2562) ∈ roundOneRows ∧ (Instr.hh47, 47, 2, 23, 0xc4ac5665) ∈ roundTwoRows ∧
      (Instr.ii63, 63, 9, 21, 0xeb86d391) ∈ roundThreeRows := by
  decide

/-- `PayloadLengthIsCountedInBits`, `PaddingIsMinimal`, `UpdateOfOneByteAndByteByByte`, `UpdateStreamsItsPayload`,
`SplittingInvariance`, `FinalPadsAndFinishes`, `LengthEntersOnlyTheLengthField` (UPDATE and FINAL),
`LegalityFollowsThePhase`: phase
ACTIVE with a buffer in canonical form, at the counts where the clauses meet. -/
theorem witness_active :
    [0, 1, 55, 56, 62, 63].all (fun n =>
      (pending (letters n)).phase == .active && (pending (letters n)).cnt.toNat == n && decide (n < 64) &&
        Memory.wf (pending (letters n)).buf) = true := by
  decide +kernel

/-- `PaddingIsMinimal`: tails of the two lengths where the clauses meet, and a number of zeros below the minimum. -/
theorem witness_tails :
    (letters 55).length ≤ 55 ∧ 56 ≤ (letters 56).length ∧ (letters 63).length ≤ 63 ∧ 61 < zeroPadding 57 := by
  decide

/-- `StepByStepRunIsCompress`: a run waiting to begin, with a beat behind it. -/
theorem witness_run_waiting :
    let s := State.reset.setInput [.start 1 0, .beat 0x100]
    s.agent = .ctl ∧ s.input = .start 1 0 :: [.beat 0x100] ∧ [Event.beat 0x100].head? ≠ some .reset := by
  decide +kernel

/-- `CmpLeavesTheContextAlone`: a step, a state whose digest is shown, and two states that agree on the ports only. -/
theorem witness_cmp :
    (∃ t, Instr.hh40 = decodeStep t) ∧ digestValid (counted .done 0) = true ∧
      (counted .done 0).stateIn = State.reset.stateIn ∧ (counted .done 0).blockIn = State.reset.blockIn ∧
      counted .done 0 ≠ State.reset :=
  ⟨⟨40, rfl⟩, by decide +kernel⟩

/-- `NopChangesNothing`: CTL with nothing presented. -/
theorem witness_idle : State.reset.agent = .ctl ∧ State.reset.input = [] := ⟨rfl, rfl⟩

/-- `CommandsOutsideActiveTakeSeqFault` and `LegalityFollowsThePhase`: both phases that refuse, the digest shown in
one of them, and no fault recorded. -/
theorem witness_refused :
    (counted .idle 0).phase ≠ .active ∧ (counted .done 100).phase ≠ .active ∧
      digestValid (counted .done 100) = true ∧ (counted .done 100).fault = false ∧ ([0x61] : List Byte) ≠ [] := by
  decide

/-- `CountOutOfRangeTakesCntFault`: the least and the greatest count out of range. -/
theorem witness_count_out_of_range :
    (counted .active 64).phase = .active ∧ 64 ≤ (counted .active 64).cnt.toNat ∧
      64 ≤ (counted .active 127).cnt.toNat ∧ ([0x61] : List Byte) ≠ [] := by
  decide

/-- `FaultRecordIsSticky`: a fault recorded, INIT presented, a next state. -/
theorem witness_sticky :
    let s := ((counted .done 0).setRecord true .seqFault).setInput [.beat 0x100]
    s.fault = true ∧ resetPresented s = false ∧ ∃ t, step s = .next t :=
  ⟨rfl, rfl, _, rfl⟩

/-- `FaultRecordDoesNotGate`: an instruction other than FINAL. -/
theorem witness_not_final : Instr.update [0x61] ≠ .final := by
  decide

/-- `UpdateFrame`: a next state, for a payload that completes no block and for one that does. -/
theorem witness_update_frame :
    ((pending (letters 3)).phase = .active ∧ (pending (letters 3)).cnt.toNat < 64 ∧ (pending (letters 3)).bufferWf) ∧
      (∃ t, exec (.update (letters 60)) (pending (letters 3)) = .next t ∧ (t.cnt == 63) = true) ∧
      (∃ t, exec (.update (letters 62)) (pending (letters 3)) = .next t ∧ (t.cnt == 1) = true) :=
  ⟨by decide, next_of_answers (by decide +kernel), next_of_answers (by decide +kernel)⟩

/-- `UpdateFrame`: an address outside the bytes written, nothing pending and something pending. -/
theorem witness_update_frame_address :
    (0 < 3 → ¬(3 ≤ 2 ∧ 2 < 3 + min (64 - 3) 60)) ∧ (3 = 0 ∨ 64 ≤ 3 + 60 → ¬2 < (3 + 60) % 64) ∧
      (0 < 0 → ¬(0 ≤ 63 ∧ 63 < 0 + min (64 - 0) 63)) ∧ (0 = 0 ∨ 64 ≤ 0 + 63 → ¬63 < (0 + 63) % 64) := by
  decide

/-- `StreamedStateIsDeterminedByThePayload`, `ProgramDigestIsMd5`, `ReinitialisationLeaksNothing`: two different
states whose buffers are in canonical form. -/
theorem witness_buffers :
    State.reset.bufferWf ∧ (pending (letters 63)).bufferWf ∧ pending (letters 63) ≠ State.reset := by
  decide +kernel

/-- `DigestPortShowsTheHashState`: the digest shown. -/
theorem witness_digest_valid : digestValid (counted .done 0) = true ∧ (counted .done 0).phase = .done := by
  decide

/-- `OnlyInitAndWholeBlocksWriteHash`: next states of each of the three kinds. -/
theorem witness_hash_writers :
    (∃ t, exec .nop State.reset = .next t) ∧ (∃ t, exec .init State.reset = .next t) ∧
      ∃ t, exec .final (pending []) = .next t ∧ (t.phase == .done) = true :=
  ⟨⟨_, rfl⟩, ⟨_, rfl⟩, next_of_answers (by decide +kernel)⟩

/-- `EveryStepKeepsTheInvariant`: a state away from reset that meets the invariant, a fault recorded, CMP at work, and
its next state. -/
theorem witness_invariant :
    let s := ((((pending (letters 63)).setRecord true .seqFault).setT 63).setAgent .cmp)
    s.Inv ∧ ∃ t, step s = .next t ∧ (t.t == 64) = true :=
  ⟨by decide +kernel, next_of_answers (by decide +kernel)⟩

/-- `StepRunsTheDecodedInstruction`: a state for each clause, T at both sides of 64 for the last but one. -/
theorem witness_fetch :
    (State.reset.setInput [.beat 0x261]).input = .beat 0x261 :: [] ∧
      (State.reset.setInput [.update [], .reset]).input = .update [] :: [.reset] ∧
      (State.reset.setInput [.compress 2 1]).input = .compress 2 1 :: [] ∧
      (State.reset.setInput [.start 2 1]).input = .start 2 1 :: [] ∧
      State.reset.agent = .ctl ∧ State.reset.input = [] ∧
      ((State.reset.setT 63).setAgent .cmp).agent = .cmp ∧ ((State.reset.setT 63).setAgent .cmp).t.toNat < 64 ∧
      ¬((State.reset.setT 64).setAgent .cmp).t.toNat < 64 ∧ State.reset.input.head? ≠ some .reset ∧
      (State.reset.setInput [.reset]).input = .reset :: [] := by
  decide +kernel

/-- `HardwareResetClearsTheRecord`: a reset presented while CMP works; and, with none presented, a fault recorded, a
cause recorded and phase IDLE kept. -/
theorem witness_reset_event :
    let s := ((State.reset.setAgent .cmp).setRecord true .cntFault).setInput [.reset, .beat 0x100]
    let u := (State.reset.setRecord true .seqFault).setInput [.beat 0x000]
    s.input = .reset :: [.beat 0x100] ∧ u.input.head? ≠ some .reset ∧ u.fault = true ∧ u.cause ≠ .none ∧
      ∃ t, step u = .next t ∧ (t.phase == .idle) = true :=
  ⟨rfl, by decide, rfl, by decide, next_of_answers (by decide)⟩

/-- `EveryStepKeepsTheStreamInvariant`: the context of a payload, an UPDATE that answers, and a step that does. -/
theorem witness_stream :
    let s := (pending (letters 3)).setInput [.beat 0x261]
    s.bufferWf ∧ State.Streamed (letters 3) s ∧ s.StreamInv ∧
      (∃ t, exec (.update [0x61]) s = .next t ∧ (t.cnt == 4) = true) ∧ ∃ t, step s = .next t ∧ (t.cnt == 4) = true := by
  have h : State.Streamed (letters 3) ((pending (letters 3)).setInput [.beat 0x261]) := by decide +kernel
  exact ⟨by decide, h, fun _ => ⟨_, h⟩, next_of_answers (by decide +kernel), next_of_answers (by decide +kernel)⟩

/-- `EveryStepKeepsTheStreamInvariant`: outside phase ACTIVE nothing is asked of the context. -/
theorem witness_stream_idle : State.reset.bufferWf ∧ State.reset.StreamInv :=
  ⟨by decide, fun h => by cases h⟩

/-- `CompressorPortsCarryTheirWords`: the least and the greatest message word. -/
theorem witness_word_index : 0 < 16 ∧ 15 < 16 := by
  decide

/-- `ControllerDrivesTheCompressorPorts`: one block and two, in UPDATE and in FINAL. -/
theorem witness_ports :
    (pending (letters 63)).phase = .active ∧ (pending (letters 63)).cnt.toNat < 64 ∧
      (pending (letters 63)).bufferWf ∧ ((pending (letters 63)).cnt.toNat + [0x61].length) / 64 = 0 + 1 ∧
      ((pending []).cnt.toNat + (letters 128).length) / 64 = 1 + 1 ∧
      (paddedTail (validBytes (pending (letters 55))) 440).length / 64 = 0 + 1 ∧
      (paddedTail (validBytes (pending (letters 56))) 448).length / 64 = 1 + 1 := by
  decide +kernel

end Sys2Proof.Tests
end

/-! Words as bytes: the values of DEC32, LE32 and LE64, and LE32 followed by DEC32 (R8). -/
namespace Sys2Proof.Machine

/-- A slice of a word is a digit of its value: the form in which R8 reads a byte, or half of a 64-bit value. -/
theorem toNat_slice {w : Nat} (v : BitVec w) (start len : Nat) :
    (v.extractLsb' start len).toNat = v.toNat / 2 ^ start % 2 ^ len := by
  rw [BitVec.extractLsb'_toNat, Nat.shiftRight_eq_div_pow]

/-- The lowest slice is a remainder alone. -/
theorem toNat_lowSlice {w : Nat} (v : BitVec w) (len : Nat) :
    (v.extractLsb' 0 len).toNat = v.toNat % 2 ^ len := by
  rw [toNat_slice, pow_zero, Nat.div_one]

/-- The slice that ends at the top of the word is a quotient alone. -/
theorem toNat_topSlice {w : Nat} (v : BitVec w) (start len : Nat) (top : w = start + len) :
    (v.extractLsb' start len).toNat = v.toNat / 2 ^ start := by
  have bound : v.toNat < 2 ^ start * 2 ^ len := by rw [← pow_add, ← top]; exact v.isLt
  rw [toNat_slice, Nat.mod_eq_of_lt (Nat.div_lt_of_lt_mul bound)]

/-- Four bytes always fit a word, so DEC32 never wraps. -/
theorem dec32_toNat (b0 b1 b2 b3 : Byte) : (dec32 b0 b1 b2 b3).toNat =
    b0.toNat + 2 ^ 8 * b1.toNat + 2 ^ 16 * b2.toNat + 2 ^ 24 * b3.toNat := by
  have fits : b0.toNat + 2 ^ 8 * b1.toNat + 2 ^ 16 * b2.toNat + 2 ^ 24 * b3.toNat < 2 ^ 32 := by
    have h0 := b0.isLt
    have h1 := b1.isLt
    have h2 := b2.isLt
    have h3 := b3.isLt
    omega
  rw [dec32, BitVec.toNat_ofNat, Nat.mod_eq_of_lt fits]

/-- DEC32 puts the bytes of LE32 back together: four digits in base 256 are the number they were taken from. -/
@[simp] theorem dec32_bytes (w : Word) :
    dec32 (w.extractLsb' 0 8) (w.extractLsb' 8 8) (w.extractLsb' 16 8) (w.extractLsb' 24 8) = w := by
  apply BitVec.eq_of_toNat_eq
  rw [dec32_toNat, toNat_lowSlice, toNat_slice w 8, toNat_slice w 16, toNat_topSlice w 24 8 rfl]
  omega

/-- LE32 answers four bytes, each a digit of the word in base 256, that DEC32 takes back to the word. -/
theorem le32_bytes (w : Word) : ∃ b0 b1 b2 b3, le32 w = [b0, b1, b2, b3] ∧ dec32 b0 b1 b2 b3 = w ∧
    b0.toNat = w.toNat % 2 ^ 8 ∧ b1.toNat = w.toNat / 2 ^ 8 % 2 ^ 8 ∧
    b2.toNat = w.toNat / 2 ^ 16 % 2 ^ 8 ∧ b3.toNat = w.toNat / 2 ^ 24 :=
  ⟨_, _, _, _, rfl, dec32_bytes w, toNat_lowSlice w 8, toNat_slice w 8 8, toNat_slice w 16 8,
    toNat_topSlice w 24 8 rfl⟩

/-- LE64 is LE32 of the low half, then LE32 of the high half. -/
theorem le64_halves (v : BitVec 64) : ∃ lo hi : Word, le64 v = le32 lo ++ le32 hi ∧
    lo.toNat = v.toNat % 2 ^ 32 ∧ hi.toNat = v.toNat / 2 ^ 32 :=
  ⟨_, _, rfl, toNat_lowSlice v 32, toNat_topSlice v 32 32 rfl⟩

/-- Settles O6: the value of DEC32, the digits of LE32 with their inverse law, and the halves of LE64. -/
theorem littleEndianConversionsAreInverse : Obligations.LittleEndianConversionsAreInverse :=
  ⟨dec32_toNat, le32_bytes, le64_halves⟩

end Sys2Proof.Machine

/-! Instructions by kind, and everything that an instruction, or a step of the machine, can do to a state. -/
namespace Sys2Proof.Machine

/-- The 69 instructions as the four commands of CTL, COMPRESS and the 64 steps by their index (R83, R86, R110). -/
inductive InstrKind : Instr → Prop where
  | nop : InstrKind .nop
  | init : InstrKind .init
  | update (data : List Byte) : InstrKind (.update data)
  | final : InstrKind .final
  | compress : InstrKind .compress
  | step (n : BitVec 6) : InstrKind (decodeStep n)

/-- A step that its place in the table decodes to. -/
theorem InstrKind.of_decodeStep {i : Instr} (h : decodeStep (BitVec.ofNat 6 (allSteps.idxOf i)) = i) : InstrKind i :=
  h ▸ .step _

/-- Every instruction is of one of the six kinds. -/
theorem instrKind (i : Instr) : InstrKind i := by
  cases i with
  | nop => exact .nop
  | init => exact .init
  | update data => exact .update data
  | final => exact .final
  | compress => exact .compress
  | _ => exact .of_decodeStep rfl

/-- The step that an index selects runs with the mixing function of its round (R86, R113). -/
theorem exec_decodeStep (n : BitVec 6) (s : State) :
    exec (decodeStep n) s = .next (machineStep (mix (stepRound n)) n s) := by
  fin_cases n <;> rfl

/-- INIT's next state (R152). -/
def initialised (s : State) : State := (((s.setH initialHash).setLen 0).setCnt 0).setPhase .active

theorem exec_init (s : State) : exec .init s = .next (initialised s) := rfl

/-- What an instruction can do to a state: nothing, INIT, a fault recorded, the pseudocode of UPDATE or FINAL in phase
ACTIVE with CNT below 64, COMPRESS, or one step. -/
inductive Effect (s : State) : Instr → State → Prop where
  | unchanged (i : Instr) : Effect s i s
  | initialised : Effect s .init (initialised s)
  | faulted (i : Instr) (c : Cause) (hc : c ≠ .none) : Effect s i (raiseFault c s)
  | updated (data : List Byte) (t : State) (hp : s.phase = .active) (hc : s.cnt.toNat < 64)
      (ht : updateBody data s = .ok t) : Effect s (.update data) t
  | finalised (t : State) (hp : s.phase = .active) (hc : s.cnt.toNat < 64)
      (ht : finalBody s = .ok t) : Effect s .final t
  | compressed : Effect s .compress (runCompress s.stateIn s.blockIn s)
  | stepped (n : BitVec 6) : Effect s (decodeStep n) (machineStep (mix (stepRound n)) n s)

/-- What a command that can fault does: it records a cause, or it runs in phase ACTIVE with CNT below 64 (R150). -/
theorem guarded_inversion {body : State → Except Fault State} {s t : State} (h : guarded body s = .next t) :
    (∃ c, c ≠ .none ∧ t = raiseFault c s) ∨ (s.phase = .active ∧ s.cnt.toNat < 64 ∧ body s = .ok t) := by
  have none_recorded : faultCheck s ≠ some .none := by
    obtain ⟨-, hf⟩ | ⟨-, -, hf⟩ | ⟨-, -, hf⟩ := faultCheck_cases s <;> simp [hf]
  obtain ⟨c, hc, ht⟩ | ⟨hn, ht⟩ := guarded_cases h
  · exact .inl ⟨c, fun hc0 => none_recorded (hc0 ▸ hc), ht⟩
  · obtain ⟨-, hf⟩ | ⟨-, -, hf⟩ | ⟨hp, hcnt, -⟩ := faultCheck_cases s
    · simp [hn] at hf
    · simp [hn] at hf
    · exact .inr ⟨hp, hcnt, ht⟩

/-- Every next state that an instruction answers is one of its effects. -/
theorem exec_effect {i : Instr} {s t : State} (h : exec i s = .next t) : Effect s i t := by
  cases instrKind i with
  | nop => exact Host.Outcome.next.inj h ▸ .unchanged _
  | init => exact Host.Outcome.next.inj h ▸ .initialised
  | compress => exact Host.Outcome.next.inj h ▸ .compressed
  | step n => exact Host.Outcome.next.inj ((exec_decodeStep n s).symm.trans h) ▸ .stepped n
  | update data =>
    simp only [exec, execUpdate] at h
    split at h
    · exact Host.Outcome.next.inj h ▸ .unchanged _
    · obtain ⟨c, hc, rfl⟩ | ⟨hp, hc, ht⟩ := guarded_inversion h
      · exact .faulted _ c hc
      · exact .updated data t hp hc ht
  | final =>
    obtain ⟨c, hc, rfl⟩ | ⟨hp, hc, ht⟩ := guarded_inversion h
    · exact .faulted _ c hc
    · exact .finalised t hp hc ht

/-- What one step of the machine can do: wait, begin or end a COMPRESS, the hardware reset, or run an instruction
in a state in which only the input and the operand ports of CMP may have changed. -/
inductive StepEffect (s : State) : State → Prop where
  | waited : StepEffect s s
  | began (rest : List Event) (p : QuadPort) (blk : Block) : StepEffect s (beginCompress p blk (s.setInput rest))
  | ended : StepEffect s (endCompress s)
  | reset (rest : List Event) (h : resetPresented s = true) : StepEffect s (hardwareReset (s.setInput rest))
  | ran (i : Instr) (rest : List Event) (p : QuadPort) (blk : Block) (t : State)
      (h : Effect ((s.setInput rest).setPorts p blk) i t) : StepEffect s t

/-- What CTL does with what the host presents. -/
theorem fetchCommand_cases (s : State) :
    fetchCommand s = .moved s ∨
      (∃ rest p blk, fetchCommand s = .moved (beginCompress p blk (s.setInput rest))) ∨
      (resetPresented s = true ∧ ∃ rest, fetchCommand s = .moved (hardwareReset (s.setInput rest))) ∨
      ∃ i rest p blk, fetchCommand s = .run i ((s.setInput rest).setPorts p blk) := by
  unfold fetchCommand
  split
  · exact .inl rfl
  · next ev rest h =>
    cases ev with
    | beat cw => exact .inr (.inr (.inr ⟨decodeBeat cw, rest, s.stateIn, s.blockIn, rfl⟩))
    | update data => exact .inr (.inr (.inr ⟨.update data, rest, s.stateIn, s.blockIn, rfl⟩))
    | compress p blk => exact .inr (.inr (.inr ⟨.compress, rest, p, blk, rfl⟩))
    | start p blk => exact .inr (.inl ⟨rest, p, blk, rfl⟩)
    | reset => exact .inr (.inr (.inl ⟨by simp [resetPresented, h], rest, rfl⟩))

/-- Where the next thing comes from: the host, or CMP in the middle of a COMPRESS. -/
theorem fetch_cases (s : State) :
    fetch s = fetchCommand s ∨ fetch s = .moved (endCompress s) ∨ ∃ i, fetch s = .run i s := by
  unfold fetch
  split
  · exact .inl rfl
  · cases s.agent with
    | ctl => exact .inl rfl
    | cmp =>
      simp only [fetchStep]
      split
      · exact .inr (.inr ⟨_, rfl⟩)
      · exact .inr (.inl rfl)

/-- Every next state that the machine answers is one of a step's effects. -/
theorem step_effect {s t : State} (h : step s = .next t) : StepEffect s t := by
  unfold step at h
  obtain hf | hf | ⟨i, hf⟩ := fetch_cases s <;> rw [hf] at h
  · obtain hc | ⟨rest, p, blk, hc⟩ | ⟨hr, rest, hc⟩ | ⟨i, rest, p, blk, hc⟩ := fetchCommand_cases s <;> rw [hc] at h
    · exact Host.Outcome.next.inj h ▸ .waited
    · exact Host.Outcome.next.inj h ▸ .began rest p blk
    · exact Host.Outcome.next.inj h ▸ .reset rest hr
    · exact .ran i rest p blk t (exec_effect h)
  · exact Host.Outcome.next.inj h ▸ .ended
  · exact .ran i s.input s.stateIn s.blockIn t (exec_effect h)

end Sys2Proof.Machine

/-! What UPDATE and FINAL leave in the registers (R153, R156). -/
namespace Sys2Proof.Machine

/-- `h'` is `h` with Compress folded over `n` whole blocks of 64 bytes. -/
def WholeBlocks (n : Nat) (h h' : Quad) : Prop :=
  ∃ bytes : List Byte, bytes.length = 64 * n ∧ h' = foldBlocks n h bytes

theorem WholeBlocks.zero (h : Quad) : WholeBlocks 0 h h := ⟨[], rfl, (foldBlocks_zero h []).symm⟩

/-- One block more. -/
theorem WholeBlocks.snoc {n : Nat} {h h' : Quad} {block : List Byte} (hw : WholeBlocks n h h')
    (hb : block.length = 64) : WholeBlocks (n + 1) h (compress h' (blockOfBytes block)) := by
  obtain ⟨bytes, hn, rfl⟩ := hw
  have same : foldBlocks n h (bytes ++ block) = foldBlocks n h bytes :=
    foldBlocks_take (by rw [List.take_left' hn, List.take_of_length_le hn.le])
  refine ⟨bytes ++ block, by rw [List.length_append]; omega, ?_⟩
  rw [foldBlocks_add, same, List.drop_left' hn, foldBlocks_succ, foldBlocks_zero, List.take_of_length_le hb.le]

/-- The whole blocks at the front of a byte sequence. -/
theorem WholeBlocks.of_le {n : Nat} {h : Quad} {bytes : List Byte} (hn : 64 * n ≤ bytes.length) :
    WholeBlocks n h (foldBlocks n h bytes) :=
  ⟨bytes.take (64 * n), List.length_take_of_le hn, foldBlocks_take (by rw [List.take_take, Nat.min_self])⟩

/-- BUF once step 2 of UPDATE has filled a pending block (R153). -/
def toppedUp (data : List Byte) (s : State) : Memory :=
  if s.cnt.toNat = 0 then s.buf else s.buf.writeBytes s.cnt.toNat (data.take (64 - s.cnt.toNat))

/-- The bytes whose whole blocks an UPDATE compresses: a pending block as step 2 fills it, then what is left of the
payload (R153). -/
def blockBytes (data : List Byte) (s : State) : List Byte :=
  if s.cnt.toNat = 0 then data else (toppedUp data s).readBytes 0 64 ++ data.drop (64 - s.cnt.toNat)

theorem blockBytes_length {data : List Byte} {s : State} (hc : s.cnt.toNat < 64)
    (h : 64 ≤ s.cnt.toNat + data.length) : (blockBytes data s).length = s.cnt.toNat + data.length := by
  unfold blockBytes
  split
  · omega
  · rw [List.length_append, Memory.readBytes_length, List.length_drop]
    omega

/-- UPDATE when it completes a block, whether bytes were pending or not: every register it is specified to leave, and
T and the agent, which stand as the last COMPRESS leaves them (R153, R23). -/
theorem updateBody_completes {data : List Byte} {s : State} (hc : s.cnt.toNat < 64)
    (h : 64 ≤ s.cnt.toNat + data.length) :
    ∃ u, updateBody data s = .ok u ∧
      u.h = foldBlocks ((s.cnt.toNat + data.length) / 64) s.h (blockBytes data s) ∧
      u.buf = (toppedUp data s).writeBytes 0 (data.drop (64 * ((s.cnt.toNat + data.length) / 64) - s.cnt.toNat)) ∧
      u.cnt = BitVec.ofNat 7 ((s.cnt.toNat + data.length) % 64) ∧
      u.len = add64 s.len (bitCount data.length) ∧ u.phase = s.phase ∧ u.fault = s.fault ∧
      u.cause = s.cause ∧ u.agent = .ctl ∧ u.t = 64 := by
  rcases Nat.eq_zero_or_pos s.cnt.toNat with h0 | h0
  · obtain ⟨u, hu, hh, hb, hcnt, hl, hp, hf, hca, -, ha, ht⟩ :=
      updateTail_spec (rest := data) (s := s.setLen (add64 s.len (bitCount data.length)))
        (BitVec.eq_of_toNat_eq (by simpa using h0))
    have hd : 64 ≤ data.length := by omega
    exact ⟨u, (updateBody_fresh h0).trans hu, by simpa [blockBytes, h0] using hh, by simpa [toppedUp, h0] using hb,
      by simpa [h0] using hcnt, hl, hp, hf, hca, ha (.inl hd), ht (.inl hd)⟩
  · obtain ⟨u, hu, hh, hb, hcnt, hl, hp, hf, hca, -, ha, ht⟩ := updateBody_flushes h0 hc h
    have hne : s.cnt.toNat ≠ 0 := by omega
    exact ⟨u, hu, by simpa [blockBytes, toppedUp, hne] using hh, by simpa [toppedUp, hne] using hb, hcnt, hl, hp, hf,
      hca, ha, ht⟩

/-- BUF keeps its canonical form while step 2 fills it. -/
theorem toppedUp_wf {data : List Byte} {s : State} (hw : s.bufferWf) (hc : s.cnt.toNat < 64) :
    Memory.wf (toppedUp data s) = true := by
  unfold toppedUp
  split
  · exact hw
  · exact Memory.writeBytes_wf hw (by rw [List.length_take]; omega)

/-- What UPDATE keeps or leaves in range: PHASE, the fault record, CNT below 64, the form of BUF; and either T and the
agent are as they were, or CTL is to move. -/
theorem updateBody_frame {data : List Byte} {s u : State} (hc : s.cnt.toNat < 64) (hu : updateBody data s = .ok u) :
    u.phase = s.phase ∧ u.fault = s.fault ∧ u.cause = s.cause ∧ u.cnt.toNat < 64 ∧ (s.bufferWf → u.bufferWf) ∧
      (u.agent = .ctl ∨ u.agent = s.agent ∧ u.t = s.t) := by
  rcases Nat.lt_or_ge (s.cnt.toNat + data.length) 64 with h | h
  · obtain rfl := Except.ok.inj ((updateBody_partial h).symm.trans hu)
    refine ⟨rfl, rfl, rfl, ?_, fun hw => Memory.writeBytes_wf hw (by omega), .inr ⟨rfl, rfl⟩⟩
    simp only [BitVec.toNat_ofNat]
    omega
  · obtain ⟨v, hv, -, hb, hcnt, -, hp, hf, hca, ha, -⟩ := updateBody_completes hc h
    obtain rfl := Except.ok.inj (hv.symm.trans hu)
    refine ⟨hp, hf, hca, ?_, fun hw => ?_, .inl ha⟩
    · rw [hcnt, BitVec.toNat_ofNat]
      omega
    · rw [State.bufferWf, hb]
      exact Memory.writeBytes_wf (toppedUp_wf hw hc) (by rw [List.length_drop]; omega)

/-- H after UPDATE: Compress folded over whole blocks, none when no block is completed. -/
theorem updateBody_hash {data : List Byte} {s u : State} (hc : s.cnt.toNat < 64) (hu : updateBody data s = .ok u) :
    ∃ n, WholeBlocks n s.h u.h := by
  rcases Nat.lt_or_ge (s.cnt.toNat + data.length) 64 with h | h
  · obtain rfl := Except.ok.inj ((updateBody_partial h).symm.trans hu)
    exact ⟨0, .zero s.h⟩
  · obtain ⟨v, hv, hh, -⟩ := updateBody_completes hc h
    obtain rfl := Except.ok.inj (hv.symm.trans hu)
    refine ⟨(s.cnt.toNat + data.length) / 64, ?_⟩
    rw [hh]
    exact .of_le (by rw [blockBytes_length hc h]; omega)

/-- The first part of FINAL: at most 56 bytes of the last block are then in use, the fault record is kept, and H is
folded over one whole block or none. -/
theorem markTail_ok {s : State} (hc : s.cnt.toNat < 64) :
    ∃ u p, markTail s = .ok (u, p) ∧ p ≤ 56 ∧ u.fault = s.fault ∧ u.cause = s.cause ∧
      ∃ n, WholeBlocks n s.h u.h := by
  rcases Nat.lt_or_ge 55 s.cnt.toNat with h | h
  · refine ⟨_, _, markTail_spills h hc, by omega, by simp, by simp, 1, ?_⟩
    rw [compressHash_h]
    exact (WholeBlocks.zero s.h).snoc (Memory.readBytes_length _ _ _)
  · exact ⟨_, _, markTail_fits h, by omega, rfl, rfl, 0, .zero s.h⟩

/-- What FINAL leaves: phase DONE, the fault record as it was, CNT below 64, BUF in form, CTL to move, and H folded
over at least one whole block (R156). -/
theorem finalBody_spec {s u : State} (hc : s.cnt.toNat < 64) (hu : finalBody s = .ok u) :
    u.phase = .done ∧ u.fault = s.fault ∧ u.cause = s.cause ∧ u.cnt.toNat < 64 ∧ u.bufferWf ∧ u.agent = .ctl ∧
      ∃ n, WholeBlocks (n + 1) s.h u.h := by
  obtain ⟨v, p, hv, hp, hf, hca, n, hw⟩ := markTail_ok hc
  obtain rfl := Except.ok.inj ((finalBody_eq hv hp).symm.trans hu)
  refine ⟨by simp, by simp [hf], by simp [hca], spendContext_count _, spendContext_wf _, by simp, n, ?_⟩
  rw [spendContext_h, State.setPhase_h, compressHash_h]
  exact hw.snoc (Memory.readBytes_length _ _ _)

/-- The result port of CMP shows H once a block has been compressed in step 3 of UPDATE, or if it did before. -/
theorem compressBlocks_stateOut {blocks : List (List Byte)} {s : State} (h : blocks ≠ [] ∨ s.stateOut = quadBits s.h) :
    (compressBlocks blocks s).stateOut = quadBits (compressBlocks blocks s).h := by
  unfold compressBlocks
  induction blocks generalizing s with
  | nil => simpa using h
  | cons b rest ih =>
    rw [List.foldl_cons]
    exact ih (.inr (by rw [compressHash_stateOut, compressHash_h]))

/-- The result port of CMP shows H after steps 3 and 4 of UPDATE. -/
theorem updateTail_stateOut {rest : List Byte} {s u : State} (hc : s.cnt = 0)
    (h : 64 ≤ rest.length ∨ s.stateOut = quadBits s.h)
    (hu : keepLeftover (rest.drop (64 * (rest.length / 64)))
      (compressBlocks (splitBlocks (rest.length / 64) rest) s) = .ok u) : u.stateOut = quadBits u.h := by
  obtain ⟨-, -, hcnt, -⟩ := compressBlocks_spec (splitBlocks (rest.length / 64) rest) s
  rw [keepLeftover_eq (by rw [List.length_drop]; omega) (hcnt.trans hc)] at hu
  obtain rfl := Except.ok.inj hu
  exact compressBlocks_stateOut (h.imp_left fun h => splitBlocks_ne_nil (by omega) rest)

/-- An UPDATE that completes a block leaves H on the result port of CMP (R95). -/
theorem updateBody_stateOut {data : List Byte} {s u : State} (hc : s.cnt.toNat < 64)
    (h : 64 ≤ s.cnt.toNat + data.length) (hu : updateBody data s = .ok u) : u.stateOut = quadBits u.h := by
  rcases Nat.eq_zero_or_pos s.cnt.toNat with h0 | h0
  · rw [updateBody_fresh h0] at hu
    exact updateTail_stateOut (BitVec.eq_of_toNat_eq (by simpa using h0)) (.inl (by omega)) hu
  · obtain ⟨v, hv, -, -, hcnt, -, -, -, -, -, -, -, -, -, hout⟩ :=
      topUp_full (s := s.setLen (add64 s.len (bitCount data.length))) h0 hc h
    simp only [updateBody, hv, bind, Except.bind] at hu
    exact updateTail_stateOut hcnt (.inr hout) hu

end Sys2Proof.Machine

/-! The output ports of CTL and the ports of CMP (R34, R95). -/
namespace Sys2Proof.Machine

/-- The output ports of CTL are functions of H, PHASE and the fault record; the digest port is one while it is valid
(R34). -/
theorem ports_of_context {s u : State} (hh : u.h = s.h) (hp : u.phase = s.phase) (hf : u.fault = s.fault)
    (hc : u.cause = s.cause) :
    phasePort u = phasePort s ∧ digestValid u = digestValid s ∧ faultPort u = faultPort s ∧ causePort u = causePort s ∧
      (digestValid s = true → digestPort u = digestPort s) := by
  have hv : digestValid u = digestValid s := by rw [digestValid, digestValid, hp]
  refine ⟨by rw [phasePort, phasePort, hp], hv, by rw [faultPort, faultPort, hf], by rw [causePort, causePort, hc],
    fun h => ?_⟩
  rw [digestPort, digestPort, hv, if_pos h, if_pos h, hh]

/-- The result port after COMPRESS is Compress of the two operand ports. -/
theorem runCompress_stateOut (p : QuadPort) (blk : Block) (s : State) :
    (runCompress p blk s).stateOut = quadBits (compress (quadOfBits p) blk) := by
  obtain ⟨w, hw⟩ := runCompress_eq p blk s
  rw [hw]

/-- COMPRESS touches no register of CTL (R120). -/
theorem runCompress_context (p : QuadPort) (blk : Block) (s : State) :
    (runCompress p blk s).h = s.h ∧ (runCompress p blk s).buf = s.buf ∧ (runCompress p blk s).cnt = s.cnt ∧
      (runCompress p blk s).len = s.len ∧ (runCompress p blk s).phase = s.phase ∧
      (runCompress p blk s).fault = s.fault ∧ (runCompress p blk s).cause = s.cause := by
  simp [runCompress]

/-- Where a packed port carries its four words (R34, R95). -/
theorem quadBits_words (q : Quad) :
    (quadBits q).extractLsb' 0 32 = q.a ∧ (quadBits q).extractLsb' 32 32 = q.b ∧
      (quadBits q).extractLsb' 64 32 = q.c ∧ (quadBits q).extractLsb' 96 32 = q.d := by
  have h := quadOfBits_quadBits q
  exact ⟨congrArg Quad.a h, congrArg Quad.b h, congrArg Quad.c h, congrArg Quad.d h⟩

/-- A byte of a word that is itself a slice. -/
theorem slice_slice {w : Nat} (v : BitVec w) {start len i n : Nat} (h : i + n ≤ len) :
    (v.extractLsb' start len).extractLsb' i n = v.extractLsb' (start + i) n := by
  apply BitVec.eq_of_getLsbD_eq
  intro j hj
  have hlt : i + j < len := by omega
  simp [hj, hlt, Nat.add_assoc]

/-- LE32 of a word cut out of a wider value is four bytes of that value. -/
theorem le32_slice {w : Nat} (v : BitVec w) (start : Nat) :
    le32 (v.extractLsb' start 32) =
      [v.extractLsb' start 8, v.extractLsb' (start + 8) 8, v.extractLsb' (start + 16) 8, v.extractLsb' (start + 24) 8] := by
  simp [le32, slice_slice]

/-- The sixteen bytes of a 128-bit port are LE32 of its words in order (R34, R52). -/
theorem portBytes_eq (p : QuadPort) :
    (List.range 16).map (fun k => p.extractLsb' (8 * k) 8) =
      le32 (p.extractLsb' 0 32) ++ le32 (p.extractLsb' 32 32) ++ le32 (p.extractLsb' 64 32) ++
        le32 (p.extractLsb' 96 32) := by
  simp only [le32_slice]
  rfl

end Sys2Proof.Machine

/-! The fault record: what no instruction clears, and what no instruction reads (R25, R197). -/
namespace Sys2Proof.Machine

/-- Taking a fault keeps FAULT and CAUSE in agreement, since every cause raised has a code (R196). -/
theorem raiseFault_recordAgrees {c : Cause} {s : State} (hc : c ≠ .none) (hr : s.recordAgrees) :
    (raiseFault c s).recordAgrees := by
  by_cases hf : s.fault = true
  · rwa [raiseFault_of_fault hf]
  · simp [State.recordAgrees, raiseFault_eq, hf, hc]

/-- No instruction clears FAULT or changes a recorded CAUSE (R25, R197). -/
theorem Effect.keeps_record {i : Instr} {s t : State} (h : Effect s i t) (hs : s.fault = true) :
    t.fault = true ∧ t.cause = s.cause := by
  cases h with
  | unchanged => exact ⟨hs, rfl⟩
  | initialised => exact ⟨hs, rfl⟩
  | faulted _ c => rw [raiseFault_of_fault hs]; exact ⟨hs, rfl⟩
  | updated data _ _ hc ht =>
    obtain ⟨-, hf, hca, -⟩ := updateBody_frame hc ht
    exact ⟨hf.trans hs, hca⟩
  | finalised _ _ hc ht =>
    obtain ⟨-, hf, hca, -⟩ := finalBody_spec hc ht
    exact ⟨hf.trans hs, hca⟩
  | compressed =>
    obtain ⟨w, hw⟩ := runCompress_eq s.stateIn s.blockIn s
    rw [hw]
    exact ⟨hs, rfl⟩
  | stepped n => exact ⟨hs, rfl⟩

/-- Two states agree on H, PHASE, T and the result port. -/
def SameResults (t u : State) : Prop := t.h = u.h ∧ t.phase = u.phase ∧ t.t = u.t ∧ t.stateOut = u.stateOut

/-- Two states agree on CNT, LEN and the whole of BUF as well. -/
def SameContext (t u : State) : Prop := SameResults t u ∧ t.cnt = u.cnt ∧ t.len = u.len ∧ t.buf = u.buf

/-- The pseudocode of UPDATE does not read the fault record. -/
theorem updateBody_setRecord {data : List Byte} {s : State} (hc : s.cnt.toNat < 64) (f : Bool) (c : Cause) :
    ∃ t u, updateBody data s = .ok t ∧ updateBody data (s.setRecord f c) = .ok u ∧ SameContext t u := by
  rcases Nat.lt_or_ge (s.cnt.toNat + data.length) 64 with h | h
  · exact ⟨_, _, updateBody_partial h, updateBody_partial (s := s.setRecord f c) h, ⟨rfl, rfl, rfl, rfl⟩, rfl, rfl, rfl⟩
  · obtain ⟨t, ht, hh, hb, hcnt, hl, hp, -, -, -, hT⟩ := updateBody_completes hc h
    obtain ⟨u, hu, hh', hb', hcnt', hl', hp', -, -, -, hT'⟩ := updateBody_completes (s := s.setRecord f c) hc h
    have hH : t.h = u.h := hh.trans hh'.symm
    refine ⟨t, u, ht, hu, ⟨hH, hp.trans hp'.symm, hT.trans hT'.symm, ?_⟩, hcnt.trans hcnt'.symm, hl.trans hl'.symm,
      hb.trans hb'.symm⟩
    rw [updateBody_stateOut hc h ht, updateBody_stateOut (s := s.setRecord f c) hc h hu, hH]

/-- The pseudocode of FINAL does not read the fault record. -/
theorem finalBody_setRecord {s : State} (hc : s.cnt.toNat < 64) (f : Bool) (c : Cause) :
    ∃ t u, finalBody s = .ok t ∧ finalBody (s.setRecord f c) = .ok u ∧ SameResults t u := by
  rcases Nat.lt_or_ge 55 s.cnt.toNat with h | h
  · exact ⟨_, _, finalBody_eq (markTail_spills h hc) (by omega),
      finalBody_eq (markTail_spills (s := s.setRecord f c) h hc) (by omega), by simp [SameResults]⟩
  · exact ⟨_, _, finalBody_eq (markTail_fits h) (by omega),
      finalBody_eq (markTail_fits (s := s.setRecord f c) h) (Nat.succ_le_succ h), by simp [SameResults]⟩

/-- The checks of a command that can fault do not read the fault record; so if its pseudocode does not, nor does the
command (R150). -/
theorem guarded_setRecord {body : State → Except Fault State} {s : State} {f : Bool} {c : Cause}
    {rel : State → State → Prop} (hfault : ∀ k, rel (raiseFault k s) (raiseFault k (s.setRecord f c)))
    (hbody : s.cnt.toNat < 64 → ∃ t u, body s = .ok t ∧ body (s.setRecord f c) = .ok u ∧ rel t u) :
    Spec.BothNext (guarded body s) (guarded body (s.setRecord f c)) rel := by
  have same : faultCheck (s.setRecord f c) = faultCheck s := rfl
  unfold guarded
  rw [same]
  obtain ⟨-, hs⟩ | ⟨-, -, hs⟩ | ⟨-, hc, hs⟩ := faultCheck_cases s <;> rw [hs]
  · exact ⟨_, _, rfl, rfl, hfault _⟩
  · exact ⟨_, _, rfl, rfl, hfault _⟩
  · obtain ⟨t, u, ht, hu, hr⟩ := hbody hc
    exact ⟨t, u, by rw [ht], by rw [hu], hr⟩

/-- Every instruction but FINAL leaves the same context whatever the fault record holds. -/
theorem exec_setRecord {i : Instr} (hi : i ≠ .final) (s : State) (f : Bool) (c : Cause) :
    Spec.BothNext (exec i s) (exec i (s.setRecord f c)) SameContext := by
  cases instrKind i with
  | nop => exact ⟨_, _, rfl, rfl, ⟨rfl, rfl, rfl, rfl⟩, rfl, rfl, rfl⟩
  | init => exact ⟨_, _, rfl, rfl, ⟨rfl, rfl, rfl, rfl⟩, rfl, rfl, rfl⟩
  | update data =>
    simp only [exec, execUpdate]
    split
    · exact ⟨_, _, rfl, rfl, ⟨rfl, rfl, rfl, rfl⟩, rfl, rfl, rfl⟩
    · exact guarded_setRecord (fun k => ⟨⟨rfl, rfl, rfl, rfl⟩, rfl, rfl, rfl⟩) fun hc => updateBody_setRecord hc f c
  | final => exact absurd rfl hi
  | compress => exact ⟨_, _, rfl, rfl, by simp [SameContext, SameResults, runCompress]⟩
  | step n => exact ⟨_, _, exec_decodeStep n s, exec_decodeStep n _, ⟨rfl, rfl, rfl, rfl⟩, rfl, rfl, rfl⟩

end Sys2Proof.Machine

/-! The statements about the state (spec/10_state.md). -/
namespace Sys2Proof.Machine

/-- Every instruction keeps the invariant of the machine. -/
theorem Effect.inv {i : Instr} {s t : State} (h : Effect s i t) (hi : s.Inv) : t.Inv := by
  obtain ⟨hcount, hrecord, hbuf, hindex⟩ := hi
  cases h with
  | unchanged => exact ⟨hcount, hrecord, hbuf, hindex⟩
  | initialised => exact ⟨fun _ => (by decide : (0 : BitVec 7).toNat < 64), hrecord, hbuf, hindex⟩
  | faulted _ c hc => exact ⟨hcount, raiseFault_recordAgrees hc hrecord, hbuf, hindex⟩
  | updated data _ hp hc ht =>
    obtain ⟨-, hf, hca, hcnt, hwf, ha⟩ := updateBody_frame hc ht
    refine ⟨fun _ => hcnt, by rwa [State.recordAgrees, hf, hca], hwf hbuf, ?_⟩
    obtain ha | ⟨ha, ht⟩ := ha
    · simp [State.indexInRange, ha]
    · rwa [State.indexInRange, ha, ht]
  | finalised _ _ hc ht =>
    obtain ⟨-, hf, hca, hcnt, hwf, ha, -⟩ := finalBody_spec hc ht
    exact ⟨fun _ => hcnt, by rwa [State.recordAgrees, hf, hca], hwf, by simp [State.indexInRange, ha]⟩
  | compressed =>
    obtain ⟨w, hw⟩ := runCompress_eq s.stateIn s.blockIn s
    rw [hw]
    exact ⟨hcount, hrecord, hbuf, fun ha => by cases ha⟩
  | stepped n =>
    refine ⟨hcount, hrecord, hbuf, fun _ => ?_⟩
    rw [machineStep_t, nextIndex, BitVec.toNat_ofNat]
    have := n.isLt
    omega

/-- Settles O48: each effect of a step keeps the invariant, an instruction's by `Effect.inv`. -/
theorem everyStepKeepsTheInvariant : Obligations.EveryStepKeepsTheInvariant := by
  intro s t hi h
  have ⟨hcount, hrecord, hbuf, hindex⟩ := hi
  cases step_effect h with
  | waited => exact hi
  | began rest p blk => exact ⟨hcount, hrecord, hbuf, by simp [State.indexInRange]⟩
  | ended => exact ⟨hcount, hrecord, hbuf, by simp [State.indexInRange]⟩
  | reset rest =>
    obtain ⟨hp, hf, hca, ha, -, hw⟩ := hardwareReset_clears (s.setInput rest)
    exact ⟨fun hne => absurd hp hne, by simp [State.recordAgrees, hf, hca], hw, by simp [State.indexInRange, ha]⟩
  | ran i rest p blk _ he => exact he.inv hi

/-- Settles O25: COMPRESS and every step write CMP's registers alone, and the result port is a function of the operand
ports. -/
theorem cmpLeavesTheContextAlone : Obligations.CmpLeavesTheContextAlone := by
  refine ⟨?_, fun s s' hp hb => ⟨_, _, rfl, rfl, ?_⟩⟩
  · rintro i s (rfl | ⟨n, rfl⟩)
    · obtain ⟨hh, hbuf, hcnt, hlen, hp, hf, hc⟩ := runCompress_context s.stateIn s.blockIn s
      exact ⟨_, rfl, hh, hbuf, hcnt, hlen, hp, hf, hc, ports_of_context hh hp hf hc⟩
    · exact ⟨_, exec_decodeStep n s, rfl, rfl, rfl, rfl, rfl, rfl, rfl, ports_of_context rfl rfl rfl rfl⟩
  · change (runCompress _ _ s).stateOut = (runCompress _ _ s').stateOut
    rw [runCompress_stateOut, runCompress_stateOut, hp, hb]

/-- Settles O33: of the effects of a step only the hardware reset touches a record that is set. -/
theorem faultRecordIsSticky : Obligations.FaultRecordIsSticky := by
  intro s t hs hn h
  cases step_effect h with
  | waited => exact ⟨hs, rfl⟩
  | began => exact ⟨hs, rfl⟩
  | ended => exact ⟨hs, rfl⟩
  | reset _ hr => simp [hn] at hr
  | ran i rest p blk _ he => exact he.keeps_record hs

/-- Settles O34: FINAL by its own results, every other instruction by the whole context. -/
theorem faultRecordDoesNotGate : Obligations.FaultRecordDoesNotGate := by
  intro i s f c
  by_cases hi : i = .final
  · subst hi
    have results : Spec.BothNext (exec .final s) (exec .final (s.setRecord f c)) SameResults :=
      guarded_setRecord (fun k => ⟨rfl, rfl, rfl, rfl⟩) fun hc => finalBody_setRecord hc f c
    obtain ⟨t, u, ht, hu, hh, hp, hT, ho⟩ := results
    exact ⟨t, u, ht, hu, hh, hp, hT, ho, fun hn => absurd rfl hn⟩
  · obtain ⟨t, u, ht, hu, ⟨hh, hp, hT, ho⟩, hcnt, hlen, hbuf⟩ := exec_setRecord hi s f c
    exact ⟨t, u, ht, hu, hh, hp, hT, ho, fun _ => ⟨hcnt, hlen, by rw [validBytes, validBytes, hbuf, hcnt]⟩⟩

/-- Settles O43: each port by its definition; the digest port carries the words of H, and its bytes are those of its
words. -/
theorem digestPortShowsTheHashState : Obligations.DigestPortShowsTheHashState := by
  intro s
  refine ⟨rfl, by simp [digestValid], ?_, rfl, fun hv => ?_⟩
  · cases hf : s.fault <;> simp [faultPort, hf]
  · obtain ⟨ha, hb, hc, hd⟩ := quadBits_words s.h
    rw [digestPort, if_pos hv, portBytes_eq, ha, hb, hc, hd]
    exact ⟨rfl, rfl, rfl, rfl, rfl⟩

/-- Settles O46: among the effects of an instruction only INIT and whole blocks reach H. -/
theorem onlyInitAndWholeBlocksWriteHash : Obligations.OnlyInitAndWholeBlocksWriteHash := by
  intro i s t h
  cases exec_effect h with
  | unchanged => exact .inl rfl
  | initialised => exact .inr (.inl ⟨rfl, rfl⟩)
  | faulted => exact .inl rfl
  | updated data _ _ hc ht =>
    obtain ⟨n, bytes, hlen, hh⟩ := updateBody_hash hc ht
    rcases n.eq_zero_or_pos with rfl | hn
    · exact .inl (hh.trans (foldBlocks_zero s.h bytes))
    · exact .inr (.inr ⟨.inr ⟨data, rfl⟩, n, bytes, hn, hlen, hh⟩)
  | finalised _ _ hc ht =>
    obtain ⟨-, -, -, -, -, -, n, bytes, hlen, hh⟩ := finalBody_spec hc ht
    exact .inr (.inr ⟨.inl rfl, n + 1, bytes, n.succ_pos, hlen, hh⟩)
  | compressed =>
    obtain ⟨w, hw⟩ := runCompress_eq s.stateIn s.blockIn s
    rw [hw]
    exact .inl rfl
  | stepped n => exact .inl rfl

/-- Settles O28: both columns of the table, read off the reset state and off INIT's next state from it. -/
theorem resetAndInitLeaveTheTabledValues : Obligations.ResetAndInitLeaveTheTabledValues :=
  ⟨rfl, rfl, rfl, rfl, rfl, initialised State.reset, exec_init State.reset, rfl, rfl, rfl, rfl, rfl, rfl, rfl, rfl, rfl,
    rfl, rfl, rfl, rfl⟩

/-- Settles O47: PHASE is IDLE, nothing is recorded, BUF holds no cell and CTL moves next. -/
theorem invariantHoldsAtReset : Obligations.InvariantHoldsAtReset := by
  have idle : State.reset.phase = .idle := rfl
  refine ⟨⟨fun h => absurd idle h, by simp [State.recordAgrees, State.reset], rfl, fun h => by cases h⟩, fun h => ?_⟩
  simp [idle] at h

end Sys2Proof.Machine

/-! The bytes of a block, and the message words they make up (R51, R53, R95). -/
namespace Sys2Proof.Machine

/-- Digit `k` in base 256 of the number that bytes write is byte `k`. -/
theorem bytesToNat_digit (bytes : List Byte) (k : Nat) :
    bytesToNat bytes / 2 ^ (8 * k) % 2 ^ 8 = (bytes.getD k 0).toNat := by
  induction bytes generalizing k with
  | nil => simp [bytesToNat]
  | cons b rest ih =>
    have hb := b.isLt
    cases k with
    | zero =>
      have low : (b.toNat + 2 ^ 8 * bytesToNat rest) % 2 ^ 8 = b.toNat := by omega
      rw [bytesToNat, Nat.mul_zero, pow_zero, Nat.div_one, low, List.getD_cons_zero]
    | succ k =>
      have tail : (b.toNat + 2 ^ 8 * bytesToNat rest) / 2 ^ 8 = bytesToNat rest := by omega
      rw [bytesToNat, Nat.mul_succ, Nat.add_comm (8 * k), pow_add, ← Nat.div_div_eq_div_mul, tail, ih,
        List.getD_cons_succ]

/-- A slice that lies inside the width is not touched by the cut to that width. -/
theorem toNat_slice_ofNat {w start len : Nat} (n : Nat) (inside : start + len ≤ w) :
    ((BitVec.ofNat w n).extractLsb' start len).toNat = n / 2 ^ start % 2 ^ len := by
  have cut : 2 ^ w = 2 ^ start * 2 ^ (w - start) := by rw [← pow_add, Nat.add_sub_cancel' (by omega)]
  have above : 2 ^ len ∣ 2 ^ (w - start) := pow_dvd_pow 2 (by omega)
  rw [toNat_slice, BitVec.toNat_ofNat, cut, Nat.mod_mul_right_div_self, Nat.mod_mod_of_dvd _ above]

/-- The block port carries byte `k` of a byte sequence as its own byte `k` (R95). -/
theorem blockByte_blockOfBytes (bytes : List Byte) {k : Nat} (hk : k < 64) :
    blockByte (blockOfBytes bytes) k = bytes.getD k 0 := by
  apply BitVec.eq_of_toNat_eq
  rw [blockByte, blockOfBytes, toNat_slice_ofNat _ (by omega), bytesToNat_digit]

/-- Message word `j` of a block is DEC32 of its four bytes (R51). -/
theorem messageWord_blockOfBytes (bytes : List Byte) {j : Nat} (hj : j < 16) :
    messageWord (blockOfBytes bytes) j =
      dec32 (bytes.getD (4 * j) 0) (bytes.getD (4 * j + 1) 0) (bytes.getD (4 * j + 2) 0)
        (bytes.getD (4 * j + 3) 0) := by
  rw [messageWord, blockByte_blockOfBytes bytes (by omega), blockByte_blockOfBytes bytes (by omega),
    blockByte_blockOfBytes bytes (by omega), blockByte_blockOfBytes bytes (by omega)]

/-- A word written little-endian on a word boundary is the message word that stands there (R51, R53). -/
theorem messageWord_of_le32 {front : List Byte} {j : Nat} (hj : j < 16) (hf : front.length = 4 * j) (w : Word)
    (back : List Byte) : messageWord (blockOfBytes (front ++ le32 w ++ back)) j = w := by
  have byte (i : Nat) : (front ++ le32 w ++ back).getD (4 * j + i) 0 = (le32 w ++ back).getD i 0 := by
    rw [List.append_assoc, List.getD_append_right _ _ _ _ (by omega), hf, Nat.add_sub_cancel_left]
  rw [messageWord_blockOfBytes _ hj, byte 1, byte 2, byte 3, ← Nat.add_zero (4 * j), byte 0]
  exact dec32_bytes w

/-- LE32 takes DEC32 back to its four bytes (R8). -/
theorem le32_dec32 (b0 b1 b2 b3 : Byte) : le32 (dec32 b0 b1 b2 b3) = [b0, b1, b2, b3] := by
  have h0 := b0.isLt
  have h1 := b1.isLt
  have h2 := b2.isLt
  have h3 := b3.isLt
  simp only [le32, List.cons.injEq, and_true]
  refine ⟨?_, ?_, ?_, ?_⟩ <;> apply BitVec.eq_of_toNat_eq <;> rw [toNat_slice, dec32_toNat] <;> omega

/-- Byte `r` of message word `j` is byte `4j + r` of the block (R51). -/
theorem messageWord_byte (blk : Block) (j : Nat) {r : Nat} (hr : r < 4) :
    (messageWord blk j).extractLsb' (8 * r) 8 = blockByte blk (4 * j + r) := by
  obtain ⟨e0, e1, e2, e3⟩ : _ ∧ _ ∧ _ ∧ _ := by
    simpa [le32] using le32_dec32 (blockByte blk (4 * j)) (blockByte blk (4 * j + 1)) (blockByte blk (4 * j + 2))
      (blockByte blk (4 * j + 3))
  match r, hr with
  | 0, _ => exact e0
  | 1, _ => exact e1
  | 2, _ => exact e2
  | 3, _ => exact e3

/-- The whole-block read of BUF carries byte `k` of BUF as byte `k` of the block (R55). -/
theorem blockByte_readBytes (m : Memory) {k : Nat} (hk : k < 64) :
    blockByte (blockOfBytes (m.readBytes 0 64)) k = m.read k := by
  rw [blockByte_blockOfBytes _ hk, List.getD_eq_getElem?_getD, Memory.readBytes_getElem?, if_pos hk, Nat.zero_add,
    Option.getD_some]

end Sys2Proof.Machine

/-! What a step fetches and runs (R61, R86, R220). -/
namespace Sys2Proof.Machine

theorem step_of_run {s u : State} {i : Instr} (h : fetch s = .run i u) : step s = exec i u := by
  rw [step, h]

theorem step_of_moved {s u : State} (h : fetch s = .moved u) : step s = .next u := by
  rw [step, h]

/-- CTL takes what the host presents (R61). -/
theorem fetch_of_ctl {s : State} (ha : s.agent = .ctl) : fetch s = fetchCommand s := by
  simp [fetch, ha]

/-- CMP in the middle of a COMPRESS goes on, unless a reset is presented (R86, R220). -/
theorem fetch_of_cmp {s : State} (ha : s.agent = .cmp) (hr : s.input.head? ≠ some .reset) :
    fetch s = fetchStep s := by
  simp [fetch, resetPresented, hr, ha]

/-- A reset is taken whoever moves next (R220). -/
theorem fetch_of_reset {s : State} (hr : s.input.head? = some .reset) : fetch s = fetchCommand s := by
  simp [fetch, resetPresented, hr]

/-- The oldest event is taken off and accepted. -/
theorem fetchCommand_of_cons {s : State} {ev : Event} {rest : List Event} (hi : s.input = ev :: rest) :
    fetchCommand s = accept ev (s.setInput rest) := by
  simp [fetchCommand, hi]

theorem fetchCommand_of_nil {s : State} (hi : s.input = []) : fetchCommand s = .moved s := by
  simp [fetchCommand, hi]

/-- CTL accepts the oldest event. -/
theorem fetch_of_presented {s : State} {ev : Event} {rest : List Event} (ha : s.agent = .ctl)
    (hi : s.input = ev :: rest) : fetch s = accept ev (s.setInput rest) :=
  (fetch_of_ctl ha).trans (fetchCommand_of_cons hi)

/-- CMP runs the step that T selects, or ends with the feed-forward (R23, R119). -/
theorem step_of_cmp {s : State} (ha : s.agent = .cmp) (hr : s.input.head? ≠ some .reset) :
    step s = if s.t.toNat < 64 then exec (decodeStep (selectedIndex s)) s else .next (endCompress s) := by
  have hf := fetch_of_cmp ha hr
  unfold fetchStep at hf
  split at hf
  · next ht => rw [step_of_run hf, if_pos ht]
  · next ht => rw [step_of_moved hf, if_neg ht]

end Sys2Proof.Machine

/-! The statements about memory and the command stream (spec/20_memory.md). -/
namespace Sys2Proof.Machine

/-- Settles O7: each byte of the block port is the byte of its index, and the example decodes from its first four. -/
theorem blockBytesDecodeToMessageWords : Obligations.BlockBytesDecodeToMessageWords := by
  refine ⟨fun bytes _ j hj => messageWord_blockOfBytes bytes hj, fun rest _ => ?_⟩
  rw [messageWord_blockOfBytes _ (by decide)]
  exact (by decide : dec32 0x61 0x62 0x63 0x80 = 0x80636261)

/-- Settles O9: LE64 is two words written little-endian, at the boundaries of words 14 and 15. -/
theorem lengthFieldFillsTheLastTwoWords : Obligations.LengthFieldFillsTheLastTwoWords := by
  intro front len hf
  have low := messageWord_of_le32 (by decide : 14 < 16) hf (len.extractLsb' 0 32) (le32 (len.extractLsb' 32 32))
  have high := messageWord_of_le32 (front := front ++ le32 (len.extractLsb' 0 32)) (by decide : 15 < 16)
    (by simp [hf, le32]) (len.extractLsb' 32 32) []
  rw [List.append_nil] at high
  rw [le64, ← List.append_assoc]
  exact ⟨rfl, low, high⟩

/-- Settles O10: both clauses read a byte of the block, which is the byte of BUF after the write. -/
theorem byteWrittenIsSeenInItsWord : Obligations.ByteWrittenIsSeenInItsWord := by
  intro m i v hm hi
  refine ⟨?_, fun k hk hne => ?_⟩
  · rw [messageWord_byte _ _ (Nat.mod_lt i (by decide)), Nat.div_add_mod, blockByte_readBytes _ hi,
      Memory.read_write hm, if_pos rfl]
  · exact (blockByte_readBytes _ hk).trans ((Memory.read_write hm).trans (if_neg hne))

/-- Settles O11: the two answers of each access, by where it ends. -/
theorem bufferAccessesStayInBounds : Obligations.BufferAccessesStayInBounds := by
  refine fun addr s => ⟨fun n => ?_, fun bytes => ?_⟩
  · obtain ⟨hin, hr⟩ | ⟨hout, hr⟩ := memRead_cases addr n s
    · rw [hr, if_pos hin, Memory.readBytes]
    · rw [hr, if_neg (by omega)]
  · obtain ⟨hin, hw⟩ | ⟨hout, hw⟩ := memWrite_cases addr bytes s
    · rw [hw, if_pos hin, State.setBuf]
    · rw [hw, if_neg (by omega)]

/-- Settles O50: what is fetched in each case, then run or moved to. -/
theorem stepRunsTheDecodedInstruction : Obligations.StepRunsTheDecodedInstruction := by
  refine fun s rest => ⟨fun cw ha hi => ?_, fun data ha hi => ?_, fun p blk ha hi => ?_, fun p blk ha hi => ?_,
    fun ha hi => ?_, fun ha hr => ?_, fun hi => ?_⟩
  · exact step_of_run (fetch_of_presented ha hi)
  · exact step_of_run (fetch_of_presented ha hi)
  · exact step_of_run (fetch_of_presented ha hi)
  · exact step_of_moved (fetch_of_presented ha hi)
  · exact step_of_moved ((fetch_of_ctl ha).trans (fetchCommand_of_nil hi))
  · exact step_of_cmp ha hr
  · exact step_of_moved ((fetch_of_reset (by rw [hi]; rfl)).trans (fetchCommand_of_cons hi))

end Sys2Proof.Machine

/-! Beats as an opcode field and a data field, and the words that encode an instruction (R82, R83, R85, R86). -/
namespace Sys2Proof.Machine

/-- A beat written as `256 * op` plus a data field is the two fields side by side (R82). -/
theorem beat_eq_append (op : BitVec 2) (v : Byte) :
    BitVec.ofNat 10 (256 * op.toNat) + v.setWidth 10 = op ++ v := by
  have hop := op.isLt
  have hv := v.isLt
  apply BitVec.eq_of_toNat_eq
  rw [BitVec.toNat_append, ← Nat.shiftLeft_add_eq_or_of_lt hv, Nat.shiftLeft_eq, BitVec.toNat_add,
    BitVec.toNat_ofNat, BitVec.toNat_setWidth]
  omega

@[simp] theorem beatOp_append (op : BitVec 2) (v : Byte) : beatOp (op ++ v) = op :=
  BitVec.extractLsb'_append_eq_left

@[simp] theorem beatData_append (op : BitVec 2) (v : Byte) : beatData (op ++ v) = v :=
  BitVec.extractLsb'_append_eq_right

@[simp] theorem beatOp_append_beatData (cw : BitVec 10) : beatOp cw ++ beatData cw = cw :=
  BitVec.extractLsb'_append_extractLsb'

/-- What a beat decodes to, by its opcode field (R83). -/
theorem decodeBeat_cases (cw : BitVec 10) :
    (beatOp cw = 0 ∧ decodeBeat cw = .nop) ∨ (beatOp cw = 1 ∧ decodeBeat cw = .init) ∨
      (beatOp cw = 2 ∧ decodeBeat cw = .update [beatData cw]) ∨ (beatOp cw = 3 ∧ decodeBeat cw = .final) := by
  have four : ∀ op : BitVec 2, op = 0 ∨ op = 1 ∨ op = 2 ∨ op = 3 := by decide
  obtain h | h | h | h := four (beatOp cw) <;> simp [decodeBeat, h]

/-- What two fields side by side decode to: the opcode chooses, and only UPDATE reads the data (R83, R91). -/
theorem decodeBeat_append (v : Byte) :
    decodeBeat (0#2 ++ v) = .nop ∧ decodeBeat (1#2 ++ v) = .init ∧ decodeBeat (2#2 ++ v) = .update [v] ∧
      decodeBeat (3#2 ++ v) = .final := by
  simp [decodeBeat]

/-- UPDATE's canonical beat carries the payload byte under opcode 2 (R83). -/
theorem updateBeat_eq_append (v : Byte) : updateBeat v = 2#2 ++ v := beat_eq_append 2 v

/-- A step is written by its own index (R86). -/
theorem encode_decodeStep (n : BitVec 6) : encode (decodeStep n) = [.step n] := by
  fin_cases n <;> rfl

/-- The beats of an UPDATE decode to one UPDATE per payload byte, in order (R85). -/
theorem decode_encode_update (data : List Byte) :
    (encode (.update data)).map decodeCode = data.map fun v => .update [v] := by
  simp [encode, decodeCode, Laws.RoundTrip.updateBeat_decodes]

/-- The words of a well-formed instruction decode to it. -/
theorem decode_encode {i : Instr} (h : i.wellFormed = true) : (encode i).map decodeCode = [i] := by
  cases instrKind i with
  | nop => exact Laws.RoundTrip.nop h
  | init => exact Laws.RoundTrip.init h
  | update data => exact Laws.RoundTrip.update data h
  | final => exact Laws.RoundTrip.final h
  | compress => exact Laws.RoundTrip.compress h
  | step n => rw [encode_decodeStep]; rfl

/-- The beat that encodes a decoded beat: the same beat for UPDATE, else the one with a zero data field (R83, R91). -/
theorem encode_decodeBeat (cw : BitVec 10) :
    encode (decodeBeat cw) = [.beat (if beatOp cw = 0b10 then cw else beatOp cw ++ (0#8))] := by
  obtain ⟨hop, h⟩ | ⟨hop, h⟩ | ⟨hop, h⟩ | ⟨hop, h⟩ := decodeBeat_cases cw <;> rw [h, hop]
  · rfl
  · rfl
  · have same : updateBeat (beatData cw) = cw := by
      rw [updateBeat_eq_append, ← beatOp_append_beatData cw, hop, beatData_append]
      rfl
    simp [encode, same]
  · rfl

/-- The canonical beat of a beat decodes to the same command (R83, R91). -/
theorem decodeBeat_canonical (cw : BitVec 10) :
    decodeBeat (if beatOp cw = 0b10 then cw else beatOp cw ++ (0#8)) = decodeBeat cw := by
  obtain ⟨nop, init, -, final⟩ := decodeBeat_append 0
  obtain ⟨hop, h⟩ | ⟨hop, h⟩ | ⟨hop, h⟩ | ⟨hop, h⟩ := decodeBeat_cases cw <;> rw [h, hop]
  · exact nop
  · exact init
  · exact h
  · exact final

theorem decodeBits_ok {f : Format} {w : Nat} {c : Code} (h : codeOfBits f w = .ok c) :
    decodeBits f w = .ok (decodeCode c) := by
  rw [decodeBits, h]

theorem decodeBits_error {f : Format} {w : Nat} {e : DecodeError} (h : codeOfBits f w = .error e) :
    decodeBits f w = .error e := by
  rw [decodeBits, h]

end Sys2Proof.Machine

/-! What the commands that can fault do, by the phase, and how UPDATE counts its payload (R88, R90, R150). -/
namespace Sys2Proof.Machine

/-- UPDATE of a byte or more is checked like FINAL (R150, R198). -/
theorem exec_update_of_ne_nil {data : List Byte} (h : data ≠ []) (s : State) :
    exec (.update data) s = guarded (updateBody data) s := by
  simp [exec, execUpdate, h]

/-- Outside phase ACTIVE a command that can fault records SeqFault (R192). -/
theorem guarded_seqFault {body : State → Except Fault State} {s : State} (hp : s.phase ≠ .active) :
    guarded body s = .next (raiseFault .seqFault s) := by
  have hf : faultCheck s = some .seqFault := if_pos hp
  rw [guarded, hf]

/-- In phase ACTIVE with CNT out of range it records CntFault (R193). -/
theorem guarded_cntFault {body : State → Except Fault State} {s : State} (hp : s.phase = .active)
    (hc : 64 ≤ s.cnt.toNat) : guarded body s = .next (raiseFault .cntFault s) := by
  have hf : faultCheck s = some .cntFault := (if_neg (not_not.mpr hp)).trans (if_pos hc)
  rw [guarded, hf]

/-- Everything that a command whose pseudocode does not stop can do, by the phase and CNT (R90, R193). -/
theorem guarded_legality {body : State → Except Fault State} {s : State}
    (hbody : s.cnt.toNat < 64 → ∃ t, body s = .ok t) :
    ∃ t, guarded body s = .next t ∧
      ((s.phase = .active ∧ s.cnt.toNat < 64 ∧ body s = .ok t) ∨
        (s.phase = .active ∧ 64 ≤ s.cnt.toNat ∧ t = raiseFault .cntFault s) ∨
        (s.phase ≠ .active ∧ t = raiseFault .seqFault s)) := by
  by_cases hp : s.phase = .active
  · rcases Nat.lt_or_ge s.cnt.toNat 64 with hc | hc
    · obtain ⟨t, ht⟩ := hbody hc
      exact ⟨t, guarded_runs hp hc ht, .inl ⟨hp, hc, ht⟩⟩
    · exact ⟨_, guarded_cntFault hp hc, .inr (.inl ⟨hp, hc, rfl⟩)⟩
  · exact ⟨_, guarded_seqFault hp, .inr (.inr ⟨hp, rfl⟩)⟩

/-- The first fault's code is recorded (R196). -/
theorem raiseFault_records (c : Cause) (s : State) :
    (raiseFault c s).phase = s.phase ∧ (raiseFault c s).fault = true ∧
      (s.fault = false → (raiseFault c s).cause = c) :=
  ⟨rfl, rfl, fun h => by simp [raiseFault_eq, h]⟩

/-- The pseudocode of UPDATE does nothing with the empty payload, as R198 asks of the command. -/
theorem updateBody_nil {s : State} (hc : s.cnt.toNat < 64) : updateBody [] s = .ok s := by
  rw [updateBody_partial (by simpa using hc)]
  simp [add64, bitCount, Memory.writeBytes]

/-- UPDATE in phase ACTIVE with CNT below 64 answers what its pseudocode does, the empty payload included. -/
theorem exec_update_runs {data : List Byte} {s t : State} (hp : s.phase = .active) (hc : s.cnt.toNat < 64)
    (ht : updateBody data s = .ok t) : exec (.update data) s = .next t := by
  by_cases hd : data = []
  · subst hd
    exact congrArg _ (Except.ok.inj ((updateBody_nil hc).symm.trans ht))
  · rw [exec_update_of_ne_nil hd, guarded_runs hp hc ht]

/-- Every UPDATE advances LEN by its bit count, whether it completes a block or not (R88). -/
theorem updateBody_len {data : List Byte} {s t : State} (hc : s.cnt.toNat < 64) (ht : updateBody data s = .ok t) :
    t.len = add64 s.len (bitCount data.length) := by
  rcases Nat.lt_or_ge (s.cnt.toNat + data.length) 64 with h | h
  · obtain rfl := Except.ok.inj ((updateBody_partial h).symm.trans ht)
    rfl
  · obtain ⟨u, hu, -, -, -, hlen, -⟩ := updateBody_completes hc h
    exact Except.ok.inj (hu.symm.trans ht) ▸ hlen

/-- The bit count of `n` bytes is the low 61 bits of `n`, moved up by three places (R88). -/
theorem bitCount_eq_shift (n : Nat) : bitCount n = (BitVec.ofNat 61 n).setWidth 64 <<< 3 := by
  apply BitVec.eq_of_toNat_eq
  rw [bitCount, BitVec.toNat_ofNat, BitVec.toNat_shiftLeft, BitVec.toNat_setWidth, BitVec.toNat_ofNat,
    Nat.shiftLeft_eq]
  omega

end Sys2Proof.Machine

/-! The block port in words, and the ports of CMP after UPDATE: its last COMPRESS and the operands of it (R95, R153). -/
namespace Sys2Proof.Machine

/-- A message word is 32 consecutive bits of the block port (R51, R95). -/
theorem messageWord_eq_slice (blk : Block) (j : Nat) : messageWord blk j = blk.extractLsb' (32 * j) 32 := by
  have byte (r : Nat) (hr : 8 * r + 8 ≤ 32) :
      blockByte blk (4 * j + r) = (blk.extractLsb' (32 * j) 32).extractLsb' (8 * r) 8 := by
    have place : 8 * (4 * j + r) = 32 * j + 8 * r := by ring
    rw [slice_slice blk hr, blockByte, place]
  rw [messageWord, byte 1 (by decide), byte 2 (by decide), byte 3 (by decide), ← Nat.add_zero (4 * j),
    byte 0 (by decide)]
  exact dec32_bytes _

/-- Bytes written right after the first `a` bytes of BUF are read after them. -/
theorem Memory.readBytes_writeBytes_front {m : Memory} {bytes : List Byte} {a n : Nat} (hm : Memory.wf m = true)
    (hn : n = a + bytes.length) (h64 : n ≤ 64) :
    (m.writeBytes a bytes).readBytes 0 n = m.readBytes 0 a ++ bytes := by
  subst hn
  rw [Memory.readBytes_append, Nat.zero_add, Memory.readBytes_writeBytes_same hm h64,
    Memory.readBytes_writeBytes_outside hm h64 (.inl (Nat.zero_add a).le)]

/-- The fold over the whole blocks of a sequence does not see what follows it. -/
theorem foldBlocks_append {n : Nat} {h : Quad} {front : List Byte} (hf : front.length = 64 * n) (back : List Byte) :
    foldBlocks n h (front ++ back) = foldBlocks n h front :=
  foldBlocks_take (by rw [List.take_left' hf, List.take_of_length_le hf.le])

/-- The bytes that an UPDATE compresses from are the pending bytes, then the payload (R153). -/
theorem blockBytes_eq {data : List Byte} {s : State} (hw : s.bufferWf) (hc : s.cnt.toNat < 64)
    (h : 64 ≤ s.cnt.toNat + data.length) : blockBytes data s = validBytes s ++ data := by
  unfold blockBytes toppedUp validBytes
  split
  · next h0 => rw [h0]; rfl
  · rw [Memory.readBytes_writeBytes_front hw (by rw [List.length_take]; omega) le_rfl, List.append_assoc,
      List.take_append_drop]

/-- The operand ports after steps 3 and 4 of UPDATE are those that step 3 leaves. -/
theorem updateTail_operands {rest : List Byte} {s u : State} (hc : s.cnt = 0)
    (hu : keepLeftover (rest.drop (64 * (rest.length / 64)))
      (compressBlocks (splitBlocks (rest.length / 64) rest) s) = .ok u) :
    u.stateIn = (compressBlocks (splitBlocks (rest.length / 64) rest) s).stateIn ∧
      u.blockIn = (compressBlocks (splitBlocks (rest.length / 64) rest) s).blockIn := by
  obtain ⟨-, -, hcnt, -⟩ := compressBlocks_spec (splitBlocks (rest.length / 64) rest) s
  rw [keepLeftover_eq (by rw [List.length_drop]; omega) (hcnt.trans hc)] at hu
  obtain rfl := Except.ok.inj hu
  exact ⟨rfl, rfl⟩

/-- Step 3 of UPDATE right after the COMPRESS of a block `b`: the last COMPRESS on the operand ports is that of the last
block of `b` and the bytes that follow it. -/
theorem compressBlocks_operands_after {n : Nat} {h : Quad} {b rest : List Byte} {s : State} (hb : b.length = 64)
    (hh : s.h = compress h (blockOfBytes b)) (hin : s.stateIn = quadBits h) (hblk : s.blockIn = blockOfBytes b) :
    (compressBlocks (splitBlocks n rest) s).stateIn = quadBits (foldBlocks n h (b ++ rest)) ∧
      (compressBlocks (splitBlocks n rest) s).blockIn = blockOfBytes (((b ++ rest).drop (64 * n)).take 64) := by
  cases n with
  | zero =>
    rw [splitBlocks, compressBlocks_nil, foldBlocks_zero, Nat.mul_zero, List.drop_zero, List.take_left' hb]
    exact ⟨hin, hblk⟩
  | succ m =>
    obtain ⟨pin, pblk, -⟩ := compressBlocks_ports m rest s
    rw [foldBlocks_succ, List.take_left' hb, List.drop_left' hb, ← hh, Nat.mul_succ, Nat.add_comm (64 * m),
      ← List.drop_drop, List.drop_left' hb]
    exact ⟨pin, pblk⟩

/-- An UPDATE that completes a block leaves its last COMPRESS on the operand ports: H as it stood before, and the last
of the blocks (R95, R153). -/
theorem updateBody_operands {data : List Byte} {s u : State} {n : Nat} (hc : s.cnt.toNat < 64)
    (hn : (s.cnt.toNat + data.length) / 64 = n + 1) (hu : updateBody data s = .ok u) :
    u.stateIn = quadBits (foldBlocks n s.h (blockBytes data s)) ∧
      u.blockIn = blockOfBytes (((blockBytes data s).drop (64 * n)).take 64) := by
  rcases Nat.eq_zero_or_pos s.cnt.toNat with h0 | h0
  · rw [updateBody_fresh h0] at hu
    obtain ⟨uin, ublk⟩ := updateTail_operands (BitVec.eq_of_toNat_eq (by simpa using h0)) hu
    have blocks : data.length / 64 = n + 1 := by omega
    obtain ⟨pin, pblk, -⟩ := compressBlocks_ports n data (s.setLen (add64 s.len (bitCount data.length)))
    rw [uin, ublk, blocks, blockBytes, if_pos h0]
    exact ⟨pin, pblk⟩
  · have full : 64 ≤ s.cnt.toNat + data.length := by omega
    obtain ⟨v, hv, hbuf, hh, hcnt, -, -, -, -, -, -, -, hin, hblk, -⟩ :=
      topUp_full (s := s.setLen (add64 s.len (bitCount data.length))) h0 hc full
    simp only [updateBody, hv, bind, Except.bind] at hu
    obtain ⟨uin, ublk⟩ := updateTail_operands hcnt hu
    have blocks : (data.drop (64 - s.cnt.toNat)).length / 64 = n := by rw [List.length_drop]; omega
    have bytes : blockBytes data s = v.buf.readBytes 0 64 ++ data.drop (64 - s.cnt.toNat) := by
      rw [blockBytes, toppedUp, if_neg h0.ne', if_neg h0.ne', hbuf]
      rfl
    rw [uin, ublk, State.setLen_cnt, blocks, bytes]
    exact compressBlocks_operands_after (Memory.readBytes_length _ _ _) hh hin hblk

end Sys2Proof.Machine

/-! The ports of CMP after FINAL, which compresses the padded tail (R89, R95, R156). -/
namespace Sys2Proof.Machine

/-- The padded tail of a tail that leaves room for the length field: one block (R89). -/
theorem paddedTail_fits {tail : List Byte} (h : tail.length ≤ 55) (bits : BitVec 64) :
    paddedTail tail bits = tail ++ [markerByte] ++ zeroBytes (56 - (tail.length + 1)) ++ le64 bits := by
  have zeros : zeroPadding tail.length = 56 - (tail.length + 1) := by unfold zeroPadding; omega
  rw [paddedTail, zeros]

/-- The padded tail of a longer one: the zeros run over into a second block (R89). -/
theorem paddedTail_spills {tail : List Byte} (h : 55 < tail.length) (h64 : tail.length < 64) (bits : BitVec 64) :
    paddedTail tail bits =
      tail ++ [markerByte] ++ zeroBytes (64 - (tail.length + 1)) ++ (zeroBytes 56 ++ le64 bits) := by
  have zeros : zeroPadding tail.length = 64 - (tail.length + 1) + 56 := by unfold zeroPadding; omega
  rw [paddedTail, zeros, zeroBytes, List.replicate_add, ← zeroBytes, ← zeroBytes]
  simp only [List.append_assoc]

theorem zeroBytes_length (n : Nat) : (zeroBytes n).length = n := List.length_replicate

/-- The last block of FINAL: the first `p` bytes of BUF, zeros up to byte 55, the length field (R156). -/
theorem lastBlock_bytes {m : Memory} {p : Nat} (hm : Memory.wf m = true) (hp : p ≤ 56) (len : BitVec 64) :
    ((m.writeBytes p (zeroBytes (56 - p))).writeBytes 56 (le64 len)).readBytes 0 64 =
      m.readBytes 0 p ++ zeroBytes (56 - p) ++ le64 len := by
  have fits : p + (zeroBytes (56 - p)).length = 56 := by rw [zeroBytes_length]; omega
  rw [Memory.readBytes_writeBytes_front (Memory.writeBytes_wf hm (by omega)) (by rw [le64_length]) le_rfl,
    Memory.readBytes_writeBytes_front hm fits.symm (by decide)]

/-- The marker written after the valid bytes (R156). -/
theorem markedBuffer_bytes {s : State} (hw : s.bufferWf) (hc : s.cnt.toNat < 64) :
    (s.buf.writeBytes s.cnt.toNat [markerByte]).readBytes 0 (s.cnt.toNat + 1) = validBytes s ++ [markerByte] :=
  Memory.readBytes_writeBytes_front hw rfl hc

/-- What the first part of FINAL leaves of the padded tail: `n` whole blocks of it are compressed, none or one, and the
last one begins with the `p` bytes in use (R156). -/
theorem markTail_pads {s : State} (hw : s.bufferWf) (hc : s.cnt.toNat < 64) :
    ∃ u p n front, markTail s = .ok (u, p) ∧ p ≤ 56 ∧ u.bufferWf ∧ u.len = s.len ∧ front.length = 64 * n ∧
      u.h = foldBlocks n s.h front ∧
      paddedTail (validBytes s) s.len = front ++ (u.buf.readBytes 0 p ++ zeroBytes (56 - p) ++ le64 s.len) := by
  have hlen : (validBytes s).length = s.cnt.toNat := Memory.readBytes_length _ _ _
  have hmark : Memory.wf (s.buf.writeBytes s.cnt.toNat [markerByte]) = true := Memory.writeBytes_wf hw hc
  rcases Nat.lt_or_ge 55 s.cnt.toNat with h | h
  · have fills : s.cnt.toNat + 1 + (zeroBytes (64 - (s.cnt.toNat + 1))).length = 64 := by
      rw [zeroBytes_length]; omega
    have block := Memory.readBytes_writeBytes_front hmark fills.symm le_rfl
    rw [markedBuffer_bytes hw hc] at block
    have whole : (validBytes s ++ [markerByte] ++ zeroBytes (64 - (s.cnt.toNat + 1))).length = 64 :=
      block ▸ Memory.readBytes_length _ _ _
    refine ⟨_, _, 1, _, markTail_spills h hc, by decide, ?_, ?_, whole, ?_, ?_⟩
    · rw [State.bufferWf, compressHash_buf]
      exact Memory.writeBytes_wf hmark fills.le
    · rw [compressHash_len, State.setBuf_len]
    · rw [compressHash_h, State.setBuf_h, block, foldBlocks_succ, foldBlocks_zero, List.take_of_length_le whole.le]
    · rw [paddedTail_spills (by omega) (by omega), hlen]
      rfl
  · refine ⟨_, _, 0, [], markTail_fits h, by omega, hmark, rfl, rfl, (foldBlocks_zero _ _).symm, ?_⟩
    rw [State.setBuf_buf, markedBuffer_bytes hw hc, paddedTail_fits (by omega), hlen, List.nil_append]

/-- FINAL leaves its last COMPRESS on the ports: the last block of the padded tail, H as it stood before it, and the
new H (R95, R156). -/
theorem finalBody_ports {s u : State} (hw : s.bufferWf) (hc : s.cnt.toNat < 64) (hu : finalBody s = .ok u) :
    u.stateOut = quadBits u.h ∧ ∃ n, (paddedTail (validBytes s) s.len).length = 64 * (n + 1) ∧
      u.stateIn = quadBits (foldBlocks n s.h (paddedTail (validBytes s) s.len)) ∧
      u.blockIn = blockOfBytes ((paddedTail (validBytes s) s.len).drop (64 * n)) := by
  obtain ⟨v, p, n, front, hv, hp, hvw, hvl, hfront, hvh, hpad⟩ := markTail_pads hw hc
  obtain rfl := Except.ok.inj ((finalBody_eq hv hp).symm.trans hu)
  refine ⟨by simp, n, ?_, ?_, ?_⟩
  · rw [hpad]
    simp only [List.length_append, hfront, Memory.readBytes_length, zeroBytes_length, le64_length]
    omega
  · rw [hpad, foldBlocks_append hfront, ← hvh]
    simp
  · rw [hpad, List.drop_left' hfront, ← lastBlock_bytes hvw hp, ← hvl]
    simp

end Sys2Proof.Machine

/-! The statements about encoding and the ports (spec/30_encoding.md). -/
namespace Sys2Proof.Machine

/-- Settles O3: instruction kind by instruction kind, and an UPDATE byte by byte. -/
theorem decodeOfEncodeIsTheInstruction : Obligations.DecodeOfEncodeIsTheInstruction :=
  ⟨fun _ => decode_encode, decode_encode_update⟩

/-- Settles O8: DEC32 of the four bytes of a slice is the slice, and a byte of the port is the byte of its index. -/
theorem messageWordsAreSlicesOfTheBlockPort : Obligations.MessageWordsAreSlicesOfTheBlockPort :=
  ⟨fun blk j _ => messageWord_eq_slice blk j, fun bytes _ _ hk => blockByte_blockOfBytes bytes hk⟩

/-- Settles O15: UPDATE runs its pseudocode, which adds the bit count to LEN. -/
theorem payloadLengthIsCountedInBits : Obligations.PayloadLengthIsCountedInBits := by
  intro data s hp hc
  obtain ⟨t, ht⟩ := updateBody_ok (data := data) hc
  have hlen : t.len = s.len + bitCount data.length := updateBody_len hc ht
  refine ⟨t, exec_update_runs hp hc ht, ?_, bitCount_eq_shift data.length ▸ hlen⟩
  rw [hlen, bitCount, BitVec.toNat_add, BitVec.toNat_ofNat, Nat.add_mod_mod]

/-- Settles O35: a beat by its opcode, and the two commands that can fault by the phase. -/
theorem legalityFollowsThePhase : Obligations.LegalityFollowsThePhase := by
  refine ⟨fun cw => ?_, fun s => ⟨rfl, rfl, ⟨_, exec_init s, rfl, rfl, rfl⟩, fun data hd => ?_, ?_⟩⟩
  · obtain ⟨-, h⟩ | ⟨-, h⟩ | ⟨-, h⟩ | ⟨-, h⟩ := decodeBeat_cases cw
    · exact .inl h
    · exact .inr (.inl h)
    · exact .inr (.inr (.inr ⟨_, h⟩))
    · exact .inr (.inr (.inl h))
  · obtain ⟨t, ht, h⟩ := guarded_legality (s := s) (updateBody_ok (data := data))
    refine ⟨t, (exec_update_of_ne_nil hd s).trans ht, ?_⟩
    obtain ⟨ha, hc, hb⟩ | ⟨ha, hc, rfl⟩ | ⟨ha, rfl⟩ := h
    · obtain ⟨hp, hf, hca, -⟩ := updateBody_frame hc hb
      exact ⟨hp, fun _ _ => ⟨hf, hca⟩, fun hn => absurd ha hn⟩
    · exact ⟨rfl, fun _ hlt => absurd hlt hc.not_gt, fun hn => absurd ha hn⟩
    · exact ⟨rfl, fun h => absurd h ha, fun _ => (raiseFault_records _ s).2⟩
  · obtain ⟨t, ht, h⟩ := guarded_legality (s := s) finalBody_ok
    refine ⟨t, ht, ?_⟩
    obtain ⟨ha, hc, hb⟩ | ⟨ha, hc, rfl⟩ | ⟨ha, rfl⟩ := h
    · obtain ⟨hp, hf, hca, -⟩ := finalBody_spec hc hb
      exact ⟨fun _ _ => ⟨hp, hf, hca⟩, fun hn => absurd ha hn⟩
    · exact ⟨fun _ hlt => absurd hlt hc.not_gt, fun hn => absurd ha hn⟩
    · exact ⟨fun h => absurd h ha, fun _ => raiseFault_records _ s⟩

/-- Settles O53: the layout of the ports both ways, and COMPRESS's result port in words. -/
theorem compressorPortsCarryTheirWords : Obligations.CompressorPortsCarryTheirWords := by
  refine ⟨quadBits_words, fun p => ⟨rfl, quadBits_quadOfBits p⟩, fun blk j _ => messageWord_eq_slice blk j,
    fun s => ⟨runCompress s.stateIn s.blockIn s, rfl, ?_⟩⟩
  obtain ⟨w, hw⟩ := runCompress_eq s.stateIn s.blockIn s
  rw [hw]
  exact ⟨rfl, rfl, quadOfBits_quadBits _, rfl⟩

/-- Settles O54: the operand ports and the result port of the last COMPRESS of each of the two commands. -/
theorem controllerDrivesTheCompressorPorts : Obligations.ControllerDrivesTheCompressorPorts := by
  refine ⟨fun data s n hp hc hw hn => ?_, fun s n hp hc hw hn => ?_⟩
  · have full : 64 ≤ s.cnt.toNat + data.length := by omega
    obtain ⟨t, ht⟩ := updateBody_ok (data := data) hc
    have operands := updateBody_operands hc hn ht
    rw [blockBytes_eq hw hc full] at operands
    exact ⟨t, exec_update_runs hp hc ht, updateBody_stateOut hc full ht, operands⟩
  · obtain ⟨t, ht⟩ := finalBody_ok hc
    obtain ⟨hout, m, hlen, hin, hblk⟩ := finalBody_ports hw hc ht
    obtain rfl : m = n := by omega
    exact ⟨t, guarded_runs hp hc ht, hout, hin, hblk⟩

/-- Settles O1: each of the words is an opcode field and a data field side by side. -/
theorem beatsDecodeByOpcode : Obligations.BeatsDecodeByOpcode := by
  intro v
  obtain ⟨nop, init, update, final⟩ := decodeBeat_append v
  rw [← beat_eq_append] at nop init update final
  exact ⟨nop, init, update, final, rfl, rfl, rfl, rfl⟩

/-- Settles O2: the decoder run on each of the nine words. -/
theorem wordsWrittenFromTheEncodingDecode : Obligations.WordsWrittenFromTheEncodingDecode :=
  ⟨rfl, rfl, rfl, rfl, rfl, rfl, rfl, rfl, rfl⟩

/-- Settles O4: the canonical beat of a beat, the index of a step, and no bits for COMPRESS. -/
theorem encodeOfDecodeIsCanonical : Obligations.EncodeOfDecodeIsCanonical :=
  ⟨fun cw => ⟨_, encode_decodeBeat cw, decodeBeat_canonical cw, rfl⟩,
    fun t => ⟨_, encode_decodeStep t, rfl, rfl⟩, _, rfl, rfl, rfl⟩

/-- Settles O5: for each format, the number read as its word, or the refusal of its format. -/
theorem tooWideWordsAreRefusedByName : Obligations.TooWideWordsAreRefusedByName := by
  refine fun w => ⟨?_, ?_, ?_⟩
  · split
    · next h => exact decodeBits_ok (c := .beat _) (if_pos h)
    · next h => exact decodeBits_error (if_neg h)
  · split
    · next h => exact decodeBits_ok (c := .step _) (if_pos h)
    · next h => exact decodeBits_error (if_neg h)
  · split
    · next h => exact decodeBits_ok (c := .func) (if_pos h)
    · next h => exact decodeBits_error (if_neg h)

end Sys2Proof.Machine

/-! Rotation bit by bit (R128); CMP one step of T at a time and the tuned schedule, both beside the 64 steps as one
fold (R23, R110, R113, R132). -/
namespace Sys2Proof.Machine

/-- Bit `j` of a rotated word is the bit `n` places below it, counted round the word (R128). -/
theorem rotl32_getLsbD (x : Word) {n j : Nat} (hn : n ≤ 31) (hj : j < 32) :
    (rotl32 x n).getLsbD j = x.getLsbD ((j + (32 - n)) % 32) := by
  have rotated : rotl32 x n = x.rotateLeft n := (BitVec.rotateLeft_eq_rotateLeftAux_of_lt (by omega)).symm
  rw [rotated, BitVec.getLsbD_rotateLeft_of_le (by omega)]
  by_cases low : j < n
  · have source : (j + (32 - n)) % 32 = 32 - n + j := by omega
    simp [low, source]
  · have source : (j + (32 - n)) % 32 = j - n := by omega
    simp [low, source, hj]

/-- A word whose bits are all the same rotates to itself (R128). -/
theorem rotl32_of_bits_equal {x : Word} {n : Nat} {b : Bool} (hn : n ≤ 31) (hx : ∀ j < 32, x.getLsbD j = b) :
    rotl32 x n = x := by
  apply BitVec.eq_of_getLsbD_eq
  intro j hj
  rw [rotl32_getLsbD x hn hj, hx j hj, hx _ (Nat.mod_lt _ (by decide))]

/-- The working registers after the first `n` of the 64 steps, from what they were loaded with (R113). -/
def firstSteps (blk : Block) (q : Quad) : Nat → Quad
  | 0 => q
  | n + 1 => roundStep blk (BitVec.ofNat 6 n) (firstSteps blk q n)

theorem firstSteps_eq_foldl (blk : Block) (q : Quad) (n : Nat) :
    firstSteps blk q n = ((List.range n).map (BitVec.ofNat 6)).foldl (fun q t => roundStep blk t q) q := by
  induction n with
  | zero => rfl
  | succ n ih => rw [firstSteps, ih, List.range_succ, List.map_append, List.foldl_append]; rfl

theorem runAllSteps_eq_firstSteps (q : Quad) (blk : Block) : runAllSteps q blk = firstSteps blk q 64 := by
  rw [runAllSteps, stepIndices, firstSteps_eq_foldl]

/-- A COMPRESS after its first `n` steps: the working registers and T (R23, R113). -/
def afterSteps (n : Nat) (s : State) : State :=
  { s with work := firstSteps s.blockIn s.work n, t := BitVec.ofNat 7 n }

theorem afterSteps_zero {s : State} (ht : s.t = 0) : afterSteps 0 s = s := by
  ext1
  case t => exact ht.symm
  all_goals rfl

theorem afterSteps_all (s : State) : afterSteps 64 s = finishSteps s := by
  rw [finishSteps, runAllSteps_eq_firstSteps]
  rfl

theorem selectedIndex_afterSteps (n : Nat) (s : State) : selectedIndex (afterSteps n s) = BitVec.ofNat 6 n := by
  apply BitVec.eq_of_toNat_eq
  rw [selectedIndex, toNat_lowSlice, afterSteps, BitVec.toNat_ofNat, BitVec.toNat_ofNat]
  omega

/-- The step that index `n` selects takes CMP from `n` steps done to `n + 1` (R86, R113). -/
theorem machineStep_afterSteps {n : Nat} (hn : n < 64) (s : State) :
    machineStep (mix (stepRound (BitVec.ofNat 6 n))) (BitVec.ofNat 6 n) (afterSteps n s) = afterSteps (n + 1) s := by
  have index : nextIndex (BitVec.ofNat 6 n) = BitVec.ofNat 7 (n + 1) := by
    rw [nextIndex, BitVec.toNat_ofNat, Nat.mod_eq_of_lt hn]
  ext1
  case t => exact index
  all_goals rfl

/-- While a step is left and no reset is presented, the machine runs the next one (R23, R220). -/
theorem step_afterSteps {s : State} {n : Nat} (ha : s.agent = .cmp) (hr : s.input.head? ≠ some .reset)
    (hn : n < 64) : step (afterSteps n s) = .next (afterSteps (n + 1) s) := by
  have left : (afterSteps n s).t.toNat < 64 := by
    rw [afterSteps, BitVec.toNat_ofNat]
    omega
  rw [step_of_cmp (s := afterSteps n s) ha hr, if_pos left, selectedIndex_afterSteps, exec_decodeStep,
    machineStep_afterSteps hn]

/-- A first step, then the rest of the run. -/
theorem run_cons {s u : State} (h : step s = .next u) (k : Nat) :
    Host.Core.run core (k + 1) s = Host.Core.run core k u := by
  have hcore : core.step s = .next u := h
  simp only [Host.Core.run, hcore]

/-- CMP with `k` steps to go runs them, and the run goes on from there. -/
theorem run_afterSteps {s : State} (ha : s.agent = .cmp) (hr : s.input.head? ≠ some .reset) (k : Nat) {m n : Nat}
    (hn : n + k = 64) : Host.Core.run core (m + k) (afterSteps n s) = Host.Core.run core m (finishSteps s) := by
  induction k generalizing n with
  | zero => rw [← afterSteps_all, ← hn]; rfl
  | succ k ih => rw [← Nat.add_assoc, run_cons (step_afterSteps ha hr (by omega)), ih (by omega)]

/-- When the steps are over, the machine ends the COMPRESS (R23, R119). -/
theorem step_finishSteps {s : State} (ha : s.agent = .cmp) (hr : s.input.head? ≠ some .reset) :
    step (finishSteps s) = .next (endCompress (finishSteps s)) := by
  rw [step_of_cmp (by simpa using ha) (by simpa using hr), finishSteps_t]
  rfl

/-- A COMPRESS just loaded runs its 64 steps and the feed-forward, one at a time (R110). -/
theorem run_loaded {s : State} (ha : s.agent = .cmp) (ht : s.t = 0) (hr : s.input.head? ≠ some .reset) :
    Host.Core.run core 65 s = .next (endCompress (finishSteps s)) :=
  calc Host.Core.run core 65 s
      = Host.Core.run core (1 + 64) (afterSteps 0 s) := by rw [afterSteps_zero ht]
    _ = Host.Core.run core 1 (finishSteps s) := run_afterSteps ha hr 64 rfl
    _ = .next (endCompress (finishSteps s)) := run_cons (step_finishSteps ha hr) 0

/-- A COMPRESS that CTL takes and CMP runs one step at a time is COMPRESS on the machine as a whole (R110). -/
theorem run_start {s : State} {p : QuadPort} {blk : Block} {rest : List Event} (ha : s.agent = .ctl)
    (hi : s.input = .start p blk :: rest) (hr : rest.head? ≠ some .reset) :
    Host.Core.run core 66 s = .next (runCompress p blk (s.setInput rest)) := by
  have begun : step s = .next (beginCompress p blk (s.setInput rest)) := step_of_moved (fetch_of_presented ha hi)
  rw [run_cons begun 65, runCompress]
  exact run_loaded rfl rfl hr

/-- What the tuned compressor holds before step `t`, where the portable one holds the working registers `q`: the sum
of step `t` formed ahead (R132). -/
def formedAhead (blk : Block) (t : BitVec 6) (q : Quad) : TunedQuad := ⟨readySum blk t q.a, q.b, q.c, q.d⟩

/-- Adding the mixing function last gives the sum of R113. -/
theorem readySum_add (blk : Block) (t : BitVec 6) (a f : Word) :
    add32 (readySum blk t a) f = add32 (add32 (add32 a f) (messageWord blk (wordIndex t))) (roundConst t) := by
  simp only [readySum, add32]
  ac_rfl

/-- An overlapped step is the portable step with the next sum formed ahead. -/
theorem tunedStep_formedAhead (blk : Block) (t : BitVec 6) (q : Quad) :
    tunedStep blk t (formedAhead blk t q) = formedAhead blk (t + 1) (roundStep blk t q) := by
  rw [tunedStep, formedAhead, readySum_add]
  rfl

/-- The last step of the tuned compressor is the portable step 63. -/
theorem tunedLast_formedAhead (blk : Block) (q : Quad) : tunedLast (formedAhead blk 63 q) q.d = roundStep blk 63 q := by
  rw [tunedLast, formedAhead, readySum_add]
  rfl

/-- The two compressors stay in step: after `n` steps the tuned one is ahead of the portable one by one sum. -/
theorem foldl_tunedStep (blk : Block) (h : Quad) (n : Nat) :
    ((List.range n).map (BitVec.ofNat 6)).foldl (fun q t => tunedStep blk t q) (formedAhead blk 0 h) =
      formedAhead blk (BitVec.ofNat 6 n) (firstSteps blk h n) := by
  induction n with
  | zero => rfl
  | succ n ih =>
    rw [List.range_succ, List.map_append, List.foldl_append, ih, BitVec.ofNat_add]
    exact tunedStep_formedAhead blk _ _

theorem compressTuned_eq_compress (h : Quad) (blk : Block) : compressTuned h blk = compress h blk := by
  have ahead : (stepIndices.take 63).foldl (fun q t => tunedStep blk t q) ⟨readySum blk 0 h.a, h.b, h.c, h.d⟩ =
      formedAhead blk 63 (firstSteps blk h 63) := foldl_tunedStep blk h 63
  rw [compressTuned, ahead, compress, runAllSteps_eq_firstSteps]
  exact congrArg (feedForward h) (tunedLast_formedAhead blk _)

end Sys2Proof.Machine

/-! The statements about the compressor that compare two ways to compute (spec/40_compressor.md). -/
namespace Sys2Proof.Machine

/-- Settles O12: where each bit of a rotated word comes from, and the shift amounts run over their 64 indices. -/
theorem rotationMovesEveryBitUp : Obligations.RotationMovesEveryBitUp := by
  refine ⟨fun x n i _ hn hi => ?_, fun n _ hn => ⟨?_, ?_⟩, by decide⟩
  · have source : ((i + n) % 32 + (32 - n)) % 32 = i := by omega
    rw [rotl32_getLsbD x hn (Nat.mod_lt _ (by decide)), source]
  · exact rotl32_of_bits_equal hn (b := false) (by decide)
  · exact rotl32_of_bits_equal hn (b := true) (by decide)

/-- Settles O23: the run is COMPRESS on the machine as a whole, which `runCompress_eq` says. -/
theorem stepByStepRunIsCompress : Obligations.StepByStepRunIsCompress := by
  intro s p blk rest ha hi hr
  obtain ⟨w, hw⟩ := runCompress_eq p blk (s.setInput rest)
  refine ⟨w, ?_⟩
  rw [run_start ha hi hr, hw, State.setInput, ← ha]

/-- Settles O24: the portable compressor is Compress itself, the tuned one a step ahead of it. -/
theorem tunedCompressorEqualsPortable : Obligations.TunedCompressorEqualsPortable := by
  intro impl h blk
  cases impl with
  | portable => rfl
  | tuned => exact compressTuned_eq_compress h blk

end Sys2Proof.Machine

/-! Byte sequences cut into whole blocks and what is left over, and the padding (R31, R62, R89, R156). -/
namespace Sys2Proof.Machine

/-- The bytes of a sequence behind its last whole block: what UPDATE keeps in BUF (R153). -/
def leftover (bytes : List Byte) : List Byte := bytes.drop (64 * (bytes.length / 64))

theorem leftover_length (bytes : List Byte) : (leftover bytes).length = bytes.length % 64 := by
  rw [leftover, List.length_drop]
  omega

/-- A sequence shorter than a block is all left over. -/
theorem leftover_of_short {bytes : List Byte} (h : bytes.length < 64) : leftover bytes = bytes := by
  rw [leftover, Nat.div_eq_of_lt h, Nat.mul_zero, List.drop_zero]

/-- A sequence shorter than a block leaves H alone. -/
theorem hashBlocks_of_short {bytes : List Byte} (h : bytes.length < 64) (q : Quad) : hashBlocks q bytes = q := by
  rw [hashBlocks, Nat.div_eq_of_lt h, foldBlocks_zero]

/-- How many whole blocks two sequences make up: those of the first, then those of its rest and the second. -/
theorem blocks_append (bytes data : List Byte) :
    (bytes ++ data).length / 64 = bytes.length / 64 + (leftover bytes ++ data).length / 64 := by
  rw [List.length_append, List.length_append, leftover_length]
  omega

/-- Behind the whole blocks of the first of two sequences comes its rest, then the second. -/
theorem drop_blocks_append (bytes data : List Byte) :
    (bytes ++ data).drop (64 * (bytes.length / 64)) = leftover bytes ++ data :=
  List.drop_append_of_le_length (Nat.mul_div_le _ _)

/-- What is left over of two sequences is left over of the rest of the first and the second. -/
theorem leftover_append (bytes data : List Byte) : leftover (bytes ++ data) = leftover (leftover bytes ++ data) := by
  rw [leftover, blocks_append, Nat.mul_add, ← List.drop_drop, drop_blocks_append, ← leftover]

/-- Compress folded over two sequences goes on from where the first one left it. -/
theorem hashBlocks_append (q : Quad) (bytes data : List Byte) :
    hashBlocks q (bytes ++ data) = hashBlocks (hashBlocks q bytes) (leftover bytes ++ data) := by
  have same : foldBlocks (bytes.length / 64) q (bytes ++ data) = hashBlocks q bytes :=
    foldBlocks_take (List.take_append_of_le_length (Nat.mul_div_le _ _))
  rw [hashBlocks, blocks_append, foldBlocks_add, same, drop_blocks_append, ← hashBlocks]

/-- One whole block, nothing left over. -/
theorem hashBlocks_of_block {bytes : List Byte} (h : bytes.length = 64) (q : Quad) :
    hashBlocks q bytes = compress q (blockOfBytes bytes) := by
  have one : bytes.length / 64 = 0 + 1 := by omega
  rw [hashBlocks, one, foldBlocks_succ, foldBlocks_zero, List.take_of_length_le h.le]

theorem bitCount_add (m n : Nat) : bitCount (m + n) = bitCount m + bitCount n := by
  rw [bitCount, Nat.mul_add, BitVec.ofNat_add, ← bitCount, ← bitCount]

/-- The bit count of `n` bytes carries `n mod 64` in its bits 8 to 3 (R31). -/
theorem bitCount_slice (n : Nat) : ((bitCount n).extractLsb' 3 6).toNat = n % 64 := by
  rw [toNat_slice, bitCount, BitVec.toNat_ofNat]
  omega

/-- The number of zero bytes depends on how far the tail reaches into its last block. -/
theorem zeroPadding_mod (n : Nat) : zeroPadding (n % 64) = zeroPadding n := by
  unfold zeroPadding
  omega

/-- The number of zero bytes as an integer (R89). -/
theorem zeroPadding_eq (n : Nat) : (zeroPadding n : Int) = (55 - (n : Int)) % 64 := by
  unfold zeroPadding
  omega

/-- The zero bytes fill the last block up to the length field (R89). -/
theorem zeroPadding_fills (n : Nat) : (n + 1 + zeroPadding n) % 64 = 56 := by
  unfold zeroPadding
  omega

theorem paddedTail_length (tail : List Byte) (bits : BitVec 64) :
    (paddedTail tail bits).length = tail.length + 1 + zeroPadding tail.length + 8 := by
  simp only [paddedTail, List.length_append, zeroBytes_length, le64_length, List.length_cons, List.length_nil]

/-- The padded tail is 64 bytes long when the length field fits behind the tail, else 128 (R89). -/
theorem paddedTail_length_of_lt {tail : List Byte} (h : tail.length < 64) (bits : BitVec 64) :
    (paddedTail tail bits).length = if tail.length ≤ 55 then 64 else 128 := by
  have fills := zeroPadding_fills tail.length
  have few : zeroPadding tail.length < 64 := by unfold zeroPadding; omega
  rw [paddedTail_length]
  split <;> omega

/-- Padding a sequence is padding what is left over of it, behind its whole blocks (R156, R162). -/
theorem hashBlocks_paddedTail (q : Quad) (bytes : List Byte) (bits : BitVec 64) :
    hashBlocks q (paddedTail bytes bits) = hashBlocks (hashBlocks q bytes) (paddedTail (leftover bytes) bits) := by
  simp only [paddedTail, List.append_assoc, leftover_length, zeroPadding_mod]
  exact hashBlocks_append q bytes _

end Sys2Proof.Machine

/-! UPDATE as a function of the stream: H and the valid bytes as the pending bytes and the payload determine them
(R153, R155). -/
namespace Sys2Proof.Machine

/-- What UPDATE of `data` leaves of the context: Compress folded over the whole blocks of the valid bytes followed by
`data`, the bytes left over, the advanced LEN; the phase, the record and what is presented as they were (R153). -/
structure Absorbs (data : List Byte) (s t : State) : Prop where
  hash : t.h = hashBlocks s.h (validBytes s ++ data)
  valid : validBytes t = leftover (validBytes s ++ data)
  len : t.len = add64 s.len (bitCount data.length)
  phase : t.phase = s.phase
  fault : t.fault = s.fault
  cause : t.cause = s.cause
  input : t.input = s.input
  wf : t.bufferWf

theorem validBytes_length (s : State) : (validBytes s).length = s.cnt.toNat := Memory.readBytes_length _ _ _

theorem validBytes_append_length (data : List Byte) (s : State) :
    (validBytes s ++ data).length = s.cnt.toNat + data.length := by
  rw [List.length_append, validBytes_length]

theorem Absorbs.count {data : List Byte} {s t : State} (h : Absorbs data s t) :
    t.cnt.toNat = (s.cnt.toNat + data.length) % 64 := by
  rw [← validBytes_length t, h.valid, leftover_length, validBytes_append_length]

theorem Absorbs.count_lt {data : List Byte} {s t : State} (h : Absorbs data s t) : t.cnt.toNat < 64 :=
  h.count ▸ Nat.mod_lt _ (by decide)

/-- The empty payload changes nothing (R198). -/
theorem Absorbs.nil {s : State} (hc : s.cnt.toNat < 64) (hw : s.bufferWf) : Absorbs [] s s := by
  have short : (validBytes s ++ []).length < 64 := by rwa [List.append_nil, validBytes_length]
  refine ⟨(hashBlocks_of_short short s.h).symm, ?_, ?_, rfl, rfl, rfl, rfl, hw⟩
  · rw [leftover_of_short short, List.append_nil]
  · simp [add64, bitCount]

/-- Two payloads one after the other are their concatenation (R155). -/
theorem Absorbs.trans {x y : List Byte} {s t u : State} (hx : Absorbs x s t) (hy : Absorbs y t u) :
    Absorbs (x ++ y) s u where
  hash := by rw [hy.hash, hx.hash, hx.valid, ← hashBlocks_append, List.append_assoc]
  valid := by rw [hy.valid, hx.valid, ← leftover_append, List.append_assoc]
  len := by rw [hy.len, hx.len, add64, add64, add64, List.length_append, bitCount_add, BitVec.add_assoc]
  phase := hy.phase.trans hx.phase
  fault := hy.fault.trans hx.fault
  cause := hy.cause.trans hx.cause
  input := hy.input.trans hx.input
  wf := hy.wf

/-- A payload determines what UPDATE is specified to leave (R155). -/
theorem Absorbs.sameStream {data : List Byte} {s t u : State} (ht : Absorbs data s t) (hu : Absorbs data s u) :
    State.SameStream t u :=
  ⟨ht.hash.trans hu.hash.symm, BitVec.eq_of_toNat_eq (ht.count.trans hu.count.symm), ht.len.trans hu.len.symm,
    ht.phase.trans hu.phase.symm, ht.valid.trans hu.valid.symm⟩

/-- UPDATE does not touch what is presented. -/
theorem updateBody_input {data : List Byte} {s t : State} (hc : s.cnt.toNat < 64) (ht : updateBody data s = .ok t) :
    t.input = s.input := by
  rcases Nat.eq_zero_or_pos s.cnt.toNat with h0 | h0
  · obtain ⟨u, hu, -, -, -, -, -, -, -, hi, -⟩ :=
      updateTail_spec (rest := data) (s := s.setLen (add64 s.len (bitCount data.length))) (BitVec.eq_of_toNat_eq h0)
    exact Except.ok.inj (((updateBody_fresh h0).trans hu).symm.trans ht) ▸ hi
  · rcases Nat.lt_or_ge (s.cnt.toNat + data.length) 64 with h | h
    · obtain rfl := Except.ok.inj ((updateBody_partial h).symm.trans ht)
      rfl
    · obtain ⟨u, hu, -, -, -, -, -, -, -, hi, -⟩ := updateBody_flushes h0 hc h
      exact Except.ok.inj (hu.symm.trans ht) ▸ hi

/-- H and the valid bytes after UPDATE, when it completes no block and when it does (R153). -/
theorem updateBody_stream {data : List Byte} {s t : State} (hc : s.cnt.toNat < 64) (hw : s.bufferWf)
    (ht : updateBody data s = .ok t) :
    t.h = hashBlocks s.h (validBytes s ++ data) ∧ validBytes t = leftover (validBytes s ++ data) := by
  have total := validBytes_append_length data s
  rcases Nat.lt_or_ge (s.cnt.toNat + data.length) 64 with h | h
  · obtain rfl := Except.ok.inj ((updateBody_partial h).symm.trans ht)
    rw [hashBlocks_of_short (total ▸ h), leftover_of_short (total ▸ h)]
    refine ⟨rfl, Memory.readBytes_writeBytes_front hw ?_ ?_⟩ <;> rw [BitVec.toNat_ofNat] <;> omega
  · obtain ⟨u, hu, hh, hb, hcnt, -⟩ := updateBody_completes hc h
    obtain rfl := Except.ok.inj (hu.symm.trans ht)
    have rest : data.drop (64 * ((s.cnt.toNat + data.length) / 64) - s.cnt.toNat) =
        leftover (validBytes s ++ data) := by
      have consumed : (validBytes s).length ≤ 64 * ((s.cnt.toNat + data.length) / 64) := by
        rw [validBytes_length]
        omega
      rw [leftover, total, List.drop_append, List.drop_eq_nil_of_le consumed, validBytes_length, List.nil_append]
    obtain ⟨-, -, -, lt, -⟩ := updateBody_frame hc hu
    have count : u.cnt.toNat = 0 + (leftover (validBytes s ++ data)).length := by
      rw [hcnt, leftover_length, total, BitVec.toNat_ofNat]
      omega
    refine ⟨by rw [hh, blockBytes_eq hw hc h, hashBlocks, total], ?_⟩
    rw [validBytes, hb, rest, Memory.readBytes_writeBytes_front (toppedUp_wf hw hc) count lt.le]
    rfl

/-- UPDATE of one byte that leaves room in the block: the byte stands behind the pending ones (R153). -/
theorem updateBody_byte_appends {v : Byte} {s t : State} (h : s.cnt.toNat < 63) (ht : updateBody [v] s = .ok t) :
    t.h = s.h ∧ t.cnt.toNat = s.cnt.toNat + 1 ∧
      (s.bufferWf → Memory.read t.buf s.cnt.toNat = v ∧ validBytes t = validBytes s ++ [v]) := by
  have short : s.cnt.toNat + [v].length < 64 := Nat.succ_lt_succ h
  have hv (hw : s.bufferWf) := (updateBody_stream (by omega) hw ht).2
  obtain rfl := Except.ok.inj ((updateBody_partial short).symm.trans ht)
  refine ⟨rfl, Nat.mod_eq_of_lt (by omega), fun hw => ⟨?_, ?_⟩⟩
  · rw [Memory.read_writeBytes hw short.le, if_pos ⟨le_rfl, Nat.lt_succ_self _⟩, Nat.sub_self, List.getD_cons_zero]
  · rw [hv hw, leftover_of_short (by rwa [validBytes_append_length])]

/-- UPDATE of one byte that completes the block (R153). -/
theorem updateBody_byte_flushes {v : Byte} {s t : State} (h : s.cnt.toNat = 63) (ht : updateBody [v] s = .ok t) :
    t.cnt = 0 ∧ (s.bufferWf → t.h = compress s.h (blockOfBytes (validBytes s ++ [v]))) := by
  have full : s.cnt.toNat + [v].length = 64 := by rw [h, List.length_singleton]
  obtain ⟨u, hu, -, -, hcnt, -⟩ := updateBody_completes (data := [v]) (by omega) full.ge
  obtain rfl := Except.ok.inj (hu.symm.trans ht)
  refine ⟨by rw [hcnt, full]; rfl, fun hw => ?_⟩
  obtain ⟨hh, -⟩ := updateBody_stream (by omega) hw ht
  rw [hh, hashBlocks_of_block (by rwa [validBytes_append_length])]

/-- The pseudocode of UPDATE absorbs its payload. -/
theorem updateBody_absorbs {data : List Byte} {s t : State} (hc : s.cnt.toNat < 64) (hw : s.bufferWf)
    (ht : updateBody data s = .ok t) : Absorbs data s t := by
  obtain ⟨hp, hf, hca, -, hwf, -⟩ := updateBody_frame hc ht
  obtain ⟨hh, hv⟩ := updateBody_stream hc hw ht
  exact ⟨hh, hv, updateBody_len hc ht, hp, hf, hca, updateBody_input hc ht, hwf hw⟩

/-- UPDATE in phase ACTIVE completes and absorbs its payload. -/
theorem exec_update_absorbs (data : List Byte) {s : State} (hp : s.phase = .active) (hc : s.cnt.toNat < 64)
    (hw : s.bufferWf) : ∃ t, exec (.update data) s = .next t ∧ Absorbs data s t := by
  obtain ⟨t, ht⟩ := updateBody_ok (data := data) hc
  exact ⟨t, exec_update_runs hp hc ht, updateBody_absorbs hc hw ht⟩

theorem runCommands_cons {i : Instr} {s t : State} (h : exec i s = .next t) (is : List Instr) :
    runCommands (i :: is) s = runCommands is t := by
  rw [runCommands, h]

theorem runCommands_append {is : List Instr} {s t : State} (h : runCommands is s = .next t) (js : List Instr) :
    runCommands (is ++ js) s = runCommands js t := by
  induction is generalizing s with
  | nil => exact Host.Outcome.next.inj h ▸ rfl
  | cons i is ih =>
    rw [List.cons_append, runCommands]
    rw [runCommands] at h
    split at h
    · exact ih h
    · cases h
    · cases h

/-- UPDATEs one after another complete and absorb their payloads together (R61, R155). -/
theorem runUpdates_absorbs (chunks : List (List Byte)) {s : State} (hp : s.phase = .active) (hc : s.cnt.toNat < 64)
    (hw : s.bufferWf) : ∃ t, runCommands (chunks.map .update) s = .next t ∧ Absorbs chunks.flatten s t := by
  induction chunks generalizing s with
  | nil => exact ⟨s, rfl, .nil hc hw⟩
  | cons x xs ih =>
    obtain ⟨t, ht, hx⟩ := exec_update_absorbs x hp hc hw
    obtain ⟨u, hu, hxs⟩ := ih (hx.phase.trans hp) hx.count_lt hx.wf
    exact ⟨u, (runCommands_cons ht _).trans hu, hx.trans hxs⟩

end Sys2Proof.Machine

/-! The context of a payload (R31): INIT begins it, UPDATE appends to it. -/
namespace Sys2Proof.Machine

/-- INIT leaves the context of the empty payload (R152). -/
theorem initialised_streamed (s : State) : State.Streamed [] (initialised s) :=
  ⟨rfl, rfl, rfl, (foldBlocks_zero _ _).symm, rfl⟩

/-- What is absorbed is appended to the payload. -/
theorem Absorbs.streamed {p d : List Byte} {s t : State} (ha : Absorbs d s t) (hs : State.Streamed p s) :
    State.Streamed (p ++ d) t := by
  obtain ⟨hp, hcnt, hlen, hh, hv⟩ := hs
  refine ⟨ha.phase.trans hp, ?_, ?_, ?_, ?_⟩
  · rw [ha.count, hcnt, List.length_append, Nat.mod_add_mod]
  · rw [ha.len, hlen, add64, ← bitCount_add, List.length_append]
  · rw [ha.hash, hh, hv]
    exact (hashBlocks_append initialHash p d).symm
  · rw [ha.valid, hv]
    exact (leftover_append p d).symm

/-- CNT is below 64 in the context of a payload. -/
theorem streamed_count {p : List Byte} {s : State} (hs : State.Streamed p s) : s.cnt.toNat < 64 := by
  obtain ⟨-, hcnt, -⟩ := hs
  exact hcnt ▸ Nat.mod_lt _ (by decide)

/-- INIT and UPDATEs complete and leave the context of their payloads together, with the fault record as it was. -/
theorem runStream {s : State} (hw : s.bufferWf) (chunks : List (List Byte)) :
    ∃ t, runCommands (.init :: chunks.map .update) s = .next t ∧ State.Streamed chunks.flatten t ∧ t.bufferWf ∧
      t.fault = s.fault ∧ t.cause = s.cause := by
  have start := initialised_streamed s
  obtain ⟨t, ht, ha⟩ := runUpdates_absorbs chunks (s := initialised s) rfl (streamed_count start) hw
  exact ⟨t, (runCommands_cons (exec_init s) _).trans ht, ha.streamed start, ha.wf, ha.fault, ha.cause⟩

/-- Every instruction keeps the context that of some payload. -/
theorem Effect.streamInv {i : Instr} {s t : State} (h : Effect s i t) (hw : s.bufferWf) (hi : s.StreamInv) :
    t.StreamInv := by
  cases h with
  | unchanged => exact hi
  | initialised => exact fun _ => ⟨[], initialised_streamed s⟩
  | faulted => exact hi
  | updated data _ hp hc ht =>
    obtain ⟨p, hs⟩ := hi hp
    exact fun _ => ⟨p ++ data, (updateBody_absorbs hc hw ht).streamed hs⟩
  | finalised _ _ hc ht =>
    obtain ⟨hdone, -⟩ := finalBody_spec hc ht
    exact fun hp => by simp [hdone] at hp
  | compressed =>
    obtain ⟨w, hrun⟩ := runCompress_eq s.stateIn s.blockIn s
    rw [hrun]
    exact hi
  | stepped => exact hi

end Sys2Proof.Machine

/-! FINAL as a function of the stream, and the digest of a whole message (R156, R162). -/
namespace Sys2Proof.Machine

/-- What FINAL leaves: Compress folded over the padded tail, phase DONE, the record and what is presented as they
were, CNT in its range and BUF in form (R156). -/
structure Finishes (s t : State) : Prop where
  hash : t.h = hashBlocks s.h (paddedTail (validBytes s) s.len)
  phase : t.phase = .done
  fault : t.fault = s.fault
  cause : t.cause = s.cause
  input : t.input = s.input
  count : t.cnt.toNat < 64
  wf : t.bufferWf

/-- The first part of FINAL does not touch what is presented. -/
theorem markTail_input {s u : State} {p : Nat} (hc : s.cnt.toNat < 64) (hu : markTail s = .ok (u, p)) :
    u.input = s.input := by
  rcases Nat.lt_or_ge 55 s.cnt.toNat with h | h
  · obtain ⟨rfl, -⟩ := Prod.mk.inj (Except.ok.inj ((markTail_spills h hc).symm.trans hu))
    rw [compressHash_input, State.setBuf_input]
  · obtain ⟨rfl, -⟩ := Prod.mk.inj (Except.ok.inj ((markTail_fits h).symm.trans hu))
    rfl

/-- The pseudocode of FINAL finishes the stream: the first part compresses the whole blocks in front of the last one,
which is then compressed with the length field in it. -/
theorem finalBody_finishes {s t : State} (hc : s.cnt.toNat < 64) (hw : s.bufferWf) (ht : finalBody s = .ok t) :
    Finishes s t := by
  obtain ⟨hp, hf, hca, hcnt, hwf, -⟩ := finalBody_spec hc ht
  obtain ⟨u, p, n, front, hu, hp56, huw, hul, hfront, huh, hpad⟩ := markTail_pads hw hc
  obtain rfl := Except.ok.inj ((finalBody_eq hu hp56).symm.trans ht)
  refine ⟨?_, hp, hf, hca, ?_, hcnt, hwf⟩
  · have last : (u.buf.readBytes 0 p ++ zeroBytes (56 - p) ++ le64 s.len).length = 64 := by
      rw [← lastBlock_bytes huw hp56, Memory.readBytes_length]
    have blocks : (front ++ (u.buf.readBytes 0 p ++ zeroBytes (56 - p) ++ le64 s.len)).length / 64 = n + 1 := by
      rw [List.length_append, hfront, last]
      omega
    rw [hpad, hashBlocks, blocks, foldBlocks_add, foldBlocks_append hfront, List.drop_left' hfront, ← huh,
      foldBlocks_succ, foldBlocks_zero, List.take_of_length_le last.le, ← lastBlock_bytes huw hp56, ← hul]
    simp
  · simp [markTail_input hc hu]

/-- FINAL in phase ACTIVE completes and finishes the stream. -/
theorem exec_final_finishes {s : State} (hp : s.phase = .active) (hc : s.cnt.toNat < 64) (hw : s.bufferWf) :
    ∃ t, exec .final s = .next t ∧ Finishes s t := by
  obtain ⟨t, ht⟩ := finalBody_ok hc
  exact ⟨t, guarded_runs hp hc ht, finalBody_finishes hc hw ht⟩

theorem digestValid_of_done {s : State} (hp : s.phase = .done) : digestValid s = true := by
  rw [digestValid, hp]
  rfl

/-- In phase DONE the digest port shows H serialised (R34, R158). -/
theorem digestBytes_of_done {s : State} (hp : s.phase = .done) : digestBytes s = serialise s.h := by
  obtain ⟨ha, hb, hc, hd⟩ := quadBits_words s.h
  have port : digestPort s = quadBits s.h := if_pos (digestValid_of_done hp)
  calc digestBytes s
      = (List.range 16).map (fun k => (quadBits s.h).extractLsb' (8 * k) 8) := by rw [← port]; rfl
    _ = serialise s.h := by rw [portBytes_eq, ha, hb, hc, hd, serialise]

/-- The program of a message completes with the fold of Compress over the padded message, whatever the split (R162). -/
theorem runHashProgram {s : State} (hw : s.bufferWf) (chunks : List (List Byte)) :
    ∃ t, runCommands (hashProgram chunks) s = .next t ∧ t.phase = .done ∧
      t.h = hashBlocks initialHash (pad chunks.flatten) ∧ t.fault = s.fault ∧ t.cause = s.cause := by
  obtain ⟨u, hu, hs, huw, huf, huca⟩ := runStream hw chunks
  have ⟨hp, _, hlen, hh, hv⟩ := hs
  obtain ⟨t, ht, hfin⟩ := exec_final_finishes hp (streamed_count hs) huw
  refine ⟨t, (runCommands_append hu [.final]).trans (runCommands_cons ht []), hfin.phase, ?_, hfin.fault.trans huf,
    hfin.cause.trans huca⟩
  rw [hfin.hash, hv, hh, hlen]
  exact (hashBlocks_paddedTail _ _ _).symm

end Sys2Proof.Machine

/-! What UPDATE leaves alone, and what does not read LEN (R153, R163). -/
namespace Sys2Proof.Machine

/-- A byte outside a write reads as before. -/
theorem Memory.read_writeBytes_outside {m : Memory} {a x : Nat} {bytes : List Byte} (hm : Memory.wf m = true)
    (ha : a + bytes.length ≤ 64) (hx : ¬(a ≤ x ∧ x < a + bytes.length)) :
    Memory.read (m.writeBytes a bytes) x = Memory.read m x := by
  rw [Memory.read_writeBytes hm ha, if_neg hx]

/-- A byte outside the run that step 2 of UPDATE writes reads as before. -/
theorem read_toppedUp {data : List Byte} {s : State} (hc : s.cnt.toNat < 64) (hw : s.bufferWf) {a : Nat}
    (ha : 0 < s.cnt.toNat → ¬(s.cnt.toNat ≤ a ∧ a < s.cnt.toNat + min (64 - s.cnt.toNat) data.length)) :
    Memory.read (toppedUp data s) a = Memory.read s.buf a := by
  unfold toppedUp
  split
  · rfl
  · next h0 =>
    refine Memory.read_writeBytes_outside hw ?_ ?_ <;> rw [List.length_take]
    · omega
    · exact ha (Nat.pos_of_ne_zero h0)

/-- A byte outside the run that step 2 of UPDATE writes at CNT, and outside the run that step 4 writes from 0, reads
as before (log entry 7). -/
theorem updateBody_read {data : List Byte} {s t : State} (hc : s.cnt.toNat < 64) (hw : s.bufferWf)
    (ht : updateBody data s = .ok t) {a : Nat}
    (htop : 0 < s.cnt.toNat → ¬(s.cnt.toNat ≤ a ∧ a < s.cnt.toNat + min (64 - s.cnt.toNat) data.length))
    (hrest : s.cnt.toNat = 0 ∨ 64 ≤ s.cnt.toNat + data.length → ¬a < (s.cnt.toNat + data.length) % 64) :
    Memory.read t.buf a = Memory.read s.buf a := by
  rcases Nat.lt_or_ge (s.cnt.toNat + data.length) 64 with h | h
  · obtain rfl := Except.ok.inj ((updateBody_partial h).symm.trans ht)
    refine Memory.read_writeBytes_outside hw h.le ?_
    rcases Nat.eq_zero_or_pos s.cnt.toNat with h0 | h0
    · have := hrest (.inl h0)
      omega
    · have := htop h0
      omega
  · obtain ⟨u, hu, -, hb, -⟩ := updateBody_completes hc h
    obtain rfl := Except.ok.inj (hu.symm.trans ht)
    have outside := hrest (.inr h)
    rw [hb, Memory.read_writeBytes_outside (toppedUp_wf hw hc), read_toppedUp hc hw htop] <;>
      rw [List.length_drop] <;> omega

/-- The pseudocode of UPDATE reads LEN only to advance it (R163). -/
theorem updateBody_setLen {data : List Byte} {s : State} (hc : s.cnt.toNat < 64) (l : BitVec 64) :
    ∃ t u, updateBody data s = .ok t ∧ updateBody data (s.setLen l) = .ok u ∧ t.h = u.h ∧ t.cnt = u.cnt ∧
      t.buf = u.buf := by
  rcases Nat.lt_or_ge (s.cnt.toNat + data.length) 64 with h | h
  · exact ⟨_, _, updateBody_partial h, updateBody_partial (s := s.setLen l) h, rfl, rfl, rfl⟩
  · obtain ⟨t, ht, hh, hb, hcnt, -⟩ := updateBody_completes hc h
    obtain ⟨u, hu, hh', hb', hcnt', -⟩ := updateBody_completes (s := s.setLen l) hc h
    exact ⟨t, u, ht, hu, hh.trans hh'.symm, hcnt.trans hcnt'.symm, hb.trans hb'.symm⟩

/-- The advanced LEN as a number (R88, R130). -/
theorem add64_bitCount_toNat (l : BitVec 64) (n : Nat) :
    (add64 l (bitCount n)).toNat = (l.toNat + 8 * n) % 2 ^ 64 := by
  rw [add64, bitCount, BitVec.toNat_add, BitVec.toNat_ofNat, Nat.add_mod_mod]

end Sys2Proof.Machine

/-! No instruction stops half way (R150, R190, R194). -/
namespace Sys2Proof.Machine

/-- Every instruction completes in every state (R150, R190). -/
theorem exec_completes (i : Instr) (s : State) : ∃ t, exec i s = .next t := by
  cases instrKind i with
  | nop => exact ⟨_, rfl⟩
  | init => exact ⟨_, exec_init s⟩
  | update data =>
    by_cases hd : data = []
    · subst hd
      exact ⟨s, rfl⟩
    · obtain ⟨t, ht, -⟩ := guarded_legality (s := s) (updateBody_ok (data := data))
      exact ⟨t, (exec_update_of_ne_nil hd s).trans ht⟩
  | final =>
    obtain ⟨t, ht, -⟩ := guarded_legality (s := s) finalBody_ok
    exact ⟨t, ht⟩
  | compress => exact ⟨_, rfl⟩
  | step n => exact ⟨_, exec_decodeStep n s⟩

end Sys2Proof.Machine

/-! The statements about the controller (spec/41_controller.md). -/
namespace Sys2Proof.Machine

/-- Settles O52: UPDATE appends what it absorbs, and of the effects of a step only instructions reach the context. -/
theorem everyStepKeepsTheStreamInvariant : Obligations.EveryStepKeepsTheStreamInvariant := by
  refine ⟨fun p d s t hw hs ht => ?_, fun s t hw hi h => ?_⟩
  · have ⟨hp, _⟩ := hs
    obtain ⟨u, hu, ha⟩ := exec_update_absorbs d hp (streamed_count hs) hw
    obtain rfl := Host.Outcome.next.inj (hu.symm.trans ht)
    exact ha.streamed hs
  · cases step_effect h with
    | waited => exact hi
    | began => exact hi
    | ended => exact hi
    | reset rest =>
      obtain ⟨idle, -⟩ := hardwareReset_clears (s.setInput rest)
      exact fun hp => by simp [idle] at hp
    | ran i rest p blk _ he => exact he.streamInv hw hi

/-- Settles O16: the number of zero bytes is the least that fills the last block, and FINAL compresses that tail. -/
theorem paddingIsMinimal : Obligations.PaddingIsMinimal := by
  refine ⟨fun tail bits => ⟨zeroPadding tail.length, rfl, zeroPadding_eq _, ?_, fun y hy => ?_, fun h => ?_,
    fun h h63 => ?_⟩, fun s hp hc hw => ?_⟩
  · have fills := zeroPadding_fills tail.length
    rw [paddedTail_length]
    omega
  · unfold zeroPadding at hy
    omega
  · rw [paddedTail_length_of_lt (by omega), if_pos h]
  · rw [paddedTail_length_of_lt (by omega), if_neg (by omega)]
  · obtain ⟨t, ht, hfin⟩ := exec_final_finishes hp hc hw
    exact ⟨t, ht, hfin.hash⟩

/-- Settles O37: UPDATE absorbs its payload. -/
theorem updateStreamsItsPayload : Obligations.UpdateStreamsItsPayload := by
  intro data s hp hc hw
  obtain ⟨t, ht, ha⟩ := exec_update_absorbs data hp hc hw
  refine ⟨t, ht, ?_, ha.count, ha.len, ?_, ha.phase.trans hp, ha.fault, ha.cause, ha.input, ha.wf⟩ <;>
    rw [← validBytes_append_length]
  · exact ha.hash
  · exact ha.valid

/-- Settles O36: one byte appended or the block that it completes; and both sides absorb the same payload. -/
theorem updateOfOneByteAndByteByByte : Obligations.UpdateOfOneByteAndByteByByte := by
  refine ⟨fun v s hp hc => ?_, fun data s hp hc hw => ?_⟩
  · obtain ⟨t, ht⟩ := updateBody_ok (data := [v]) hc
    obtain ⟨hphase, -⟩ := updateBody_frame hc ht
    refine ⟨t, exec_update_runs hp hc ht, updateBody_len hc ht, hphase.trans hp, fun h => ?_, fun h => ?_⟩
    · exact updateBody_byte_appends h ht
    · exact updateBody_byte_flushes h ht
  · obtain ⟨t, ht, ha⟩ := exec_update_absorbs data hp hc hw
    obtain ⟨u, hu, hb⟩ := runUpdates_absorbs (data.map fun v => [v]) hp hc hw
    rw [List.map_map] at hu
    rw [← List.flatMap_def, List.flatMap_singleton'] at hb
    exact ⟨t, u, ht, hu, ha.sameStream hb⟩

/-- Settles O38: what UPDATE keeps, the bytes outside its two writes, and the state when it completes no block. -/
theorem updateFrame : Obligations.UpdateFrame := by
  intro data s t hp hc hw h
  obtain ⟨u, hu⟩ := updateBody_ok (data := data) hc
  obtain rfl := Host.Outcome.next.inj ((exec_update_runs hp hc hu).symm.trans h)
  obtain ⟨hphase, hf, hca, -⟩ := updateBody_frame hc hu
  refine ⟨hphase, hf, hca, updateBody_input hc hu, fun a => updateBody_read hc hw hu, fun hshort => ?_⟩
  obtain rfl := Except.ok.inj ((updateBody_partial hshort).symm.trans hu)
  exact ⟨rfl, rfl, rfl, rfl, rfl, rfl, rfl⟩

/-- Settles O39: both sides absorb the concatenation. -/
theorem splittingInvariance : Obligations.SplittingInvariance := by
  intro x y s hp hc hw
  obtain ⟨t, ht, hxy⟩ := runUpdates_absorbs [x, y] hp hc hw
  obtain ⟨u, hu, h⟩ := exec_update_absorbs (x ++ y) hp hc hw
  rw [List.flatten_cons, List.flatten_singleton] at hxy
  exact ⟨t, u, ht, hu, hxy.sameStream h⟩

/-- Settles O40: INIT begins the context of the empty payload and each UPDATE appends to it. -/
theorem streamedStateIsDeterminedByThePayload : Obligations.StreamedStateIsDeterminedByThePayload := by
  intro payloads s hw
  obtain ⟨t, ht, hs, htw, -⟩ := runStream hw payloads
  have ⟨_, hcnt, hlen, _⟩ := hs
  exact ⟨t, ht, hs, by rw [hcnt, hlen, bitCount_slice], htw⟩

/-- Settles O41: FINAL finishes the stream, and the digest port shows H. -/
theorem finalPadsAndFinishes : Obligations.FinalPadsAndFinishes := by
  intro s hp hc hw
  obtain ⟨t, ht, hfin⟩ := exec_final_finishes hp hc hw
  have size := paddedTail_length_of_lt ((validBytes_length s).trans_lt hc) s.len
  rw [validBytes_length] at size
  exact ⟨t, ht, hfin.hash, size, hfin.phase, digestValid_of_done hfin.phase, digestBytes_of_done hfin.phase, hfin.fault,
    hfin.cause, hfin.input, hfin.count, hfin.wf⟩

/-- Settles O42: UPDATE only advances LEN, and FINAL's padded tail holds it in its last eight bytes. -/
theorem lengthEntersOnlyTheLengthField : Obligations.LengthEntersOnlyTheLengthField := by
  refine ⟨fun data s l hp hc => ?_, fun s l hp hc hw => ?_⟩
  · obtain ⟨t, u, ht, hu, hh, hcnt, hbuf⟩ := updateBody_setLen (data := data) hc l
    obtain ⟨htp, htf, htc, -⟩ := updateBody_frame hc ht
    obtain ⟨hup, huf, huc, -⟩ := updateBody_frame (s := s.setLen l) hc hu
    refine ⟨t, u, exec_update_runs hp hc ht, exec_update_runs (s := s.setLen l) hp hc hu, hh, hcnt, htp.trans hup.symm,
      htf.trans huf.symm, htc.trans huc.symm, by rw [validBytes, validBytes, hbuf, hcnt], ?_, ?_⟩
    · rw [updateBody_len hc ht, add64_bitCount_toNat]
    · rw [updateBody_len (s := s.setLen l) hc hu, add64_bitCount_toNat, State.setLen_len]
  · obtain ⟨t, ht, htfin⟩ := exec_final_finishes hp hc hw
    obtain ⟨u, hu, hufin⟩ := exec_final_finishes (s := s.setLen l) hp hc hw
    have pads (bits : BitVec 64) : paddedTail (validBytes s) bits =
        validBytes s ++ [0x80] ++ zeroBytes (zeroPadding s.cnt.toNat) ++ le64 bits := by
      rw [paddedTail, validBytes_length, markerByte]
    have aligned : (validBytes s ++ [0x80] ++ zeroBytes (zeroPadding s.cnt.toNat)).length % 64 = 56 := by
      simp only [List.length_append, List.length_singleton, validBytes_length, zeroBytes_length]
      exact zeroPadding_fills s.cnt.toNat
    exact ⟨t, u, ht, hu, _, rfl, aligned, le64_length _, le64_length _, htfin.hash.trans (congrArg _ (pads _)),
      hufin.hash.trans (congrArg _ (pads _)), htfin.phase, hufin.phase, htfin.fault.trans hufin.fault.symm,
      htfin.cause.trans hufin.cause.symm⟩

/-- Settles O44: the program ends with the fold over the padded message on the digest port; the two values by
evaluation. -/
theorem programDigestIsMd5 : Obligations.ProgramDigestIsMd5 := by
  refine ⟨fun chunks s hw => ?_, by decide +kernel, by decide +kernel⟩
  obtain ⟨t, ht, hp, hh, -⟩ := runHashProgram hw chunks
  have digest : digestBytes t = md5 chunks.flatten := by rw [digestBytes_of_done hp, hh, md5]
  exact ⟨t, ht, digestValid_of_done hp, digest, digest⟩

/-- Settles O45: what ran before leaves BUF in canonical form and the record as it was, and from there the program of
`b` ends as from anywhere. -/
theorem reinitialisationLeaksNothing : Obligations.ReinitialisationLeaksNothing := by
  intro a b s s' hw hw'
  obtain ⟨r, hr, -, hrw, hrf, hrc⟩ := runStream hw a
  obtain ⟨t, ht, htp, hth, htf, htc⟩ := runHashProgram hrw b
  obtain ⟨u, hu, hup, huh, -⟩ := runHashProgram hw' b
  refine ⟨t, u, (runCommands_append hr _).trans ht, hu, digestValid_of_done htp, digestValid_of_done hup, ?_,
    hth.trans huh.symm, htf.trans hrf, htc.trans hrc⟩
  rw [digestBytes_of_done htp, digestBytes_of_done hup, hth, huh]

/-- Settles O49: every instruction completes, and a step runs one or has already moved. -/
theorem everyStepCompletes : Obligations.EveryStepCompletes := by
  refine ⟨fun s => ?_, exec_completes⟩
  cases h : fetch s with
  | run i u =>
    rw [step_of_run h]
    exact exec_completes i u
  | moved u => exact ⟨u, step_of_moved h⟩

/-- Settles O26: NOP's meaning, and CTL with nothing to take. -/
theorem nopChangesNothing : Obligations.NopChangesNothing :=
  ⟨fun _ => rfl, fun _ ha hi => step_of_moved ((fetch_of_ctl ha).trans (fetchCommand_of_nil hi))⟩

/-- Settles O27: INIT's next state, which INIT leaves as it is. -/
theorem initLoadsTheConstants : Obligations.InitLoadsTheConstants :=
  fun s => ⟨initialised s, exec_init s, rfl, rfl, rfl⟩

end Sys2Proof.Machine

/-! The statements about faults (spec/60_exceptions.md). -/
namespace Sys2Proof.Machine

/-- The commands that can fault run their pseudocode behind the one fault check (R150). -/
theorem exec_guarded {i : Instr} (hi : i = .final ∨ ∃ data, data ≠ [] ∧ i = .update data) (s : State) :
    ∃ body, exec i s = guarded body s := by
  obtain rfl | ⟨data, hd, rfl⟩ := hi
  · exact ⟨finalBody, rfl⟩
  · exact ⟨updateBody data, exec_update_of_ne_nil hd s⟩

/-- The record that the machine leaves is the one that R196 asks for, which tests FAULT the other way round. -/
theorem raiseFault_eq_faulted (c : Cause) (s : State) : raiseFault c s = Spec.faulted c s := by
  rw [raiseFault_eq, Spec.faulted]
  cases s.fault <;> rfl

/-- A digest on the port stays there when a fault is recorded (R192). -/
theorem digestPort_faulted {s : State} (hv : digestValid s = true) (c : Cause) :
    digestPort (Spec.faulted c s) = digestPort s :=
  have hv' : digestValid (Spec.faulted c s) = true := hv
  (if_pos hv').trans (if_pos hv).symm

/-- Settles O29: the empty payload is answered before the fault check. -/
theorem emptyUpdateChangesNothing : Obligations.EmptyUpdateChangesNothing :=
  fun _ => ⟨rfl, rfl⟩

/-- Settles O30: the fault check refuses by the phase, and the record is no part of the digest. -/
theorem commandsOutsideActiveTakeSeqFault : Obligations.CommandsOutsideActiveTakeSeqFault := by
  intro i s hi hp
  obtain ⟨body, hbody⟩ := exec_guarded hi s
  refine ⟨?_, rfl, fun hv => digestPort_faulted hv _⟩
  rw [hbody, guarded_seqFault hp, raiseFault_eq_faulted]

/-- Settles O31: the fault check refuses by CNT once the phase allows the command. -/
theorem countOutOfRangeTakesCntFault : Obligations.CountOutOfRangeTakesCntFault := by
  intro i s hi hp hc
  obtain ⟨body, hbody⟩ := exec_guarded hi s
  rw [hbody, guarded_cntFault hp hc, raiseFault_eq_faulted]

/-- Settles O32: the first fault leaves FAULT set, and a fault taken with FAULT set writes nothing. -/
theorem firstFaultIsRecordedAndKept : Obligations.FirstFaultIsRecordedAndKept :=
  fun c _ s => ⟨raiseFault_eq_faulted c s, raiseFault_of_fault rfl⟩

end Sys2Proof.Machine

/-! What only a hardware reset undoes (R220). -/
namespace Sys2Proof.Machine

/-- From `s` to `t` neither FAULT nor CAUSE is cleared, and IDLE is not entered (R220). -/
def NothingReset (s t : State) : Prop :=
  (s.fault = true → t.fault = true) ∧ (s.cause ≠ .none → t.cause ≠ .none) ∧ (t.phase = .idle → s.phase = .idle)

theorem NothingReset.of_record_kept {s t : State} (hf : t.fault = s.fault) (hca : t.cause = s.cause)
    (hp : t.phase = .idle → s.phase = .idle) : NothingReset s t :=
  ⟨hf.trans, fun h => hca ▸ h, hp⟩

theorem NothingReset.refl (s : State) : NothingReset s s := .of_record_kept rfl rfl id

/-- Taking a fault leaves CAUSE non-zero whether FAULT was set or not, since the code recorded is not zero (R196). -/
theorem raiseFault_nothingReset {c : Cause} (hc : c ≠ .none) (s : State) : NothingReset s (raiseFault c s) := by
  by_cases hf : s.fault = true
  · rw [raiseFault_of_fault hf]
    exact .refl s
  · obtain ⟨hp, hfault, hcause⟩ := raiseFault_records c s
    exact ⟨fun _ => hfault, fun _ => (hcause (Bool.eq_false_of_not_eq_true hf)).trans_ne hc, hp.symm.trans⟩

/-- No instruction does what a reset does: INIT enters ACTIVE and FINAL enters DONE, and the rest keep PHASE. -/
theorem Effect.nothingReset {i : Instr} {s t : State} (h : Effect s i t) : NothingReset s t := by
  cases h with
  | unchanged => exact .refl s
  | initialised => exact .of_record_kept rfl rfl nofun
  | faulted _ c hc => exact raiseFault_nothingReset hc s
  | updated data _ _ hc ht =>
    obtain ⟨hp, hf, hca, -⟩ := updateBody_frame hc ht
    exact .of_record_kept hf hca hp.symm.trans
  | finalised _ _ hc ht =>
    obtain ⟨hdone, hf, hca, -⟩ := finalBody_spec hc ht
    exact .of_record_kept hf hca fun hidle => nomatch hdone.symm.trans hidle
  | compressed =>
    obtain ⟨-, -, -, -, hp, hf, hca⟩ := runCompress_context s.stateIn s.blockIn s
    exact .of_record_kept hf hca hp.symm.trans
  | stepped => exact .of_record_kept rfl rfl id

/-- A reset presented is taken at once, also in the middle of a COMPRESS (R220). -/
theorem step_of_reset {s : State} {rest : List Event} (hi : s.input = .reset :: rest) :
    step s = .next (hardwareReset (s.setInput rest)) :=
  step_of_moved ((fetch_of_reset (by rw [hi]; rfl)).trans (fetchCommand_of_cons hi))

end Sys2Proof.Machine

/-! The statement about the hardware reset (spec/70_reset_and_hazards.md). -/
namespace Sys2Proof.Machine

/-- Settles O51: the reset's next state; and of the effects of a step only the reset clears the record or enters
IDLE. -/
theorem hardwareResetClearsTheRecord : Obligations.HardwareResetClearsTheRecord := by
  refine ⟨fun s rest hi => ?_, fun s t hn h => ?_⟩
  · obtain ⟨hp, hf, hca, ha, hin, -⟩ := hardwareReset_clears (s.setInput rest)
    exact ⟨_, step_of_reset hi, hp, hf, hca, ha, hin⟩
  · cases step_effect h with
    | waited => exact NothingReset.refl s
    | began => exact NothingReset.of_record_kept rfl rfl id
    | ended => exact NothingReset.of_record_kept rfl rfl id
    | reset _ hr => exact absurd (beq_iff_eq.mp hr) hn
    | ran i rest p blk _ he => exact he.nothingReset

end Sys2Proof.Machine

/-! The mixing functions bit by bit, and table T1 as the rows that the model's own tables give (R113, R115 to R118). -/
namespace Sys2Proof.Machine

/-! ### Mixing bit by bit -/

section
variable (b c d : Word)

/-- F selects: where `b` is 1 the bit of `c`, else the bit of `d` (R115, R122). -/
theorem mixF_getLsbD {i : Nat} (hi : i < 32) :
    (mixF b c d).getLsbD i = if b.getLsbD i then c.getLsbD i else d.getLsbD i := by
  simp only [mixF, or32, and32, not32, BitVec.getLsbD_or, BitVec.getLsbD_and, BitVec.getLsbD_not, hi]
  cases b.getLsbD i <;> simp

/-- G2 selects: where `d` is 1 the bit of `b`, else the bit of `c` (R115, R123). -/
theorem mixG_getLsbD {i : Nat} (hi : i < 32) :
    (mixG b c d).getLsbD i = if d.getLsbD i then b.getLsbD i else c.getLsbD i := by
  simp only [mixG, or32, and32, not32, BitVec.getLsbD_or, BitVec.getLsbD_and, BitVec.getLsbD_not, hi]
  cases d.getLsbD i <;> simp

/-- Hx is the parity (R115, R124). -/
theorem mixH_getLsbD (i : Nat) :
    (mixH b c d).getLsbD i = ((b.getLsbD i ^^ c.getLsbD i) ^^ d.getLsbD i) := by
  simp [mixH, xor32]

/-- I is `c` xor (`b` or not `d`) (R115, R125). -/
theorem mixI_getLsbD {i : Nat} (hi : i < 32) :
    (mixI b c d).getLsbD i = (c.getLsbD i ^^ (b.getLsbD i || !d.getLsbD i)) := by
  simp [mixI, xor32, or32, not32, hi]

theorem mixF_zero : mixF 0#32 c d = d := by
  apply BitVec.eq_of_getLsbD_eq
  intro i hi
  rw [mixF_getLsbD _ c d hi, BitVec.getLsbD_zero, if_neg Bool.false_ne_true]

theorem mixF_ones : mixF (BitVec.allOnes 32) c d = c := by
  apply BitVec.eq_of_getLsbD_eq
  intro i hi
  rw [mixF_getLsbD _ c d hi, BitVec.getLsbD_allOnes, if_pos (decide_eq_true hi)]

theorem mixF_same : mixF b c c = c := by
  apply BitVec.eq_of_getLsbD_eq
  intro i hi
  rw [mixF_getLsbD b c c hi, ite_self]

/-- G2 is F with `d` as the selector. -/
theorem mixG_eq_mixF : mixG b c d = mixF d b c := by
  apply BitVec.eq_of_getLsbD_eq
  intro i hi
  rw [mixG_getLsbD b c d hi, mixF_getLsbD d b c hi]

theorem mixG_zero : mixG b c 0#32 = c := by
  rw [mixG_eq_mixF, mixF_zero]

theorem mixG_ones : mixG b c (BitVec.allOnes 32) = b := by
  rw [mixG_eq_mixF, mixF_ones]

theorem mixH_cancel : mixH b b d = d := by
  rw [mixH, xor32, xor32, BitVec.xor_self, BitVec.zero_xor]

theorem mixI_ones : mixI (BitVec.allOnes 32) c d = ~~~c := by
  rw [mixI, xor32, or32, BitVec.allOnes_or, BitVec.xor_allOnes]

theorem mixI_zero_right : mixI b c 0#32 = ~~~c := by
  rw [mixI, xor32, or32, not32, BitVec.not_zero, BitVec.or_allOnes, BitVec.xor_allOnes]

theorem mixI_zero_left : mixI 0#32 c (BitVec.allOnes 32) = c := by
  rw [mixI, xor32, or32, not32, BitVec.not_allOnes, BitVec.or_self, BitVec.xor_zero]

end

/-! ### Table T1 -/

/-- Row `t` of table T1 as the model's tables and decoder give it (R86, R116 to R118). -/
def rowAt (t : BitVec 6) : Instr × Nat × Nat × Nat × Word :=
  (decodeStep t, t.toNat, wordIndex t, shiftAmount t, roundConst t)

/-- The sixteen rows of a round, ascending. -/
def rowsOf (round : BitVec 2) : Spec.Rows := (List.range 16).map fun j => rowAt (round ++ BitVec.ofNat 4 j)

/-! The spec's rows of each round, compared with the model's one by one. -/

theorem roundZeroRows_eq : Spec.roundZeroRows = rowsOf 0 := by decide
theorem roundOneRows_eq : Spec.roundOneRows = rowsOf 1 := by decide
theorem roundTwoRows_eq : Spec.roundTwoRows = rowsOf 2 := by decide
theorem roundThreeRows_eq : Spec.roundThreeRows = rowsOf 3 := by decide

/-- A row of a round is the row of an index with that round in its two high bits. -/
theorem mem_rowsOf {row : Instr × Nat × Nat × Nat × Word} {round : BitVec 2} (h : row ∈ rowsOf round) :
    ∃ j : BitVec 4, row = rowAt (round ++ j) := by
  obtain ⟨j, -, rfl⟩ := List.mem_map.mp h
  exact ⟨_, rfl⟩

theorem mem_tableRows {row : Instr × Nat × Nat × Nat × Word} (h : row ∈ Spec.tableRows) :
    ∃ t : BitVec 6, row = rowAt t := by
  rw [Spec.tableRows, roundZeroRows_eq, roundOneRows_eq, roundTwoRows_eq, roundThreeRows_eq] at h
  simp only [List.mem_append] at h
  obtain ((h | h) | h) | h := h
  all_goals
    obtain ⟨j, rfl⟩ := mem_rowsOf h
    exact ⟨_, rfl⟩

/-- The round of a step is its index divided by 16 (R86). -/
theorem stepRound_toNat (t : BitVec 6) : (stepRound t).toNat = t.toNat / 16 := toNat_topSlice t 4 2 rfl

theorem stepRound_append (round : BitVec 2) (j : BitVec 4) : stepRound (round ++ j) = round :=
  BitVec.extractLsb'_append_eq_left

/-- G(t) by the four ranges of the index (R118). -/
theorem wordIndex_eq (t : BitVec 6) : wordIndex t =
    if t.toNat < 16 then t.toNat % 16 else if t.toNat < 32 then (5 * t.toNat + 1) % 16
    else if t.toNat < 48 then (3 * t.toNat + 5) % 16 else (7 * t.toNat) % 16 := by
  have ht := t.isLt
  rw [wordIndex, stepRound_toNat]
  obtain hr | hr | hr | hr : t.toNat / 16 = 0 ∨ t.toNat / 16 = 1 ∨ t.toNat / 16 = 2 ∨ t.toNat / 16 = 3 := by omega
  all_goals
    simp only [hr]
    split_ifs <;> omega

/-- Up to 31 places, rotl32 is the rotation of the library (R128). -/
theorem rotl32_eq_rotateLeft (x : Word) {n : Nat} (hn : n ≤ 31) : rotl32 x n = x.rotateLeft n :=
  (BitVec.rotateLeft_eq_rotateLeftAux_of_lt (by omega)).symm

/-- A step on the machine leaves what its row of table T1 says (R113). -/
theorem machineStep_eq_rowResult (f : Word → Word → Word → Word) (t : BitVec 6) (s : State) :
    machineStep f t s = Spec.rowResult f t.toNat (wordIndex t) (shiftAmount t) (roundConst t) s := by
  obtain ⟨-, -, shifts⟩ := rotationMovesEveryBitUp
  have range : shiftAmount t ≤ 31 := (shifts t).2.trans (by decide)
  simp only [machineStep, kindStep, stepQuad, rotl32_eq_rotateLeft _ range, add32]
  rfl

/-- Each row of a round runs, in every state, with the mixing function of the round (R113, R115). -/
theorem rowsOf_run {f : Word → Word → Word → Word} {round : BitVec 2} (hf : mix round = f) :
    Spec.RowsRun f (rowsOf round) := by
  intro i t g sh k h s
  obtain ⟨j, ⟨⟩⟩ := mem_rowsOf h
  rw [exec_decodeStep, stepRound_append, hf, machineStep_eq_rowResult]

/-- Compress is the ascending fold of the 64 steps with the feed-forward (R110, R119). -/
theorem compress_eq_foldl (h : Quad) (blk : Block) : compress h blk =
    feedForward h ((List.range 64).foldl (fun q t => roundStep blk (BitVec.ofNat 6 t) q) h) := by
  rw [compress, runAllSteps, stepIndices, List.foldl_map]

end Sys2Proof.Machine

/-! The statements about the tables, the steps and the function of CMP (spec/40_compressor.md). -/
namespace Sys2Proof.Machine

/-- Settles O13: the four mixing functions, each bit by bit. -/
theorem mixingFunctionsFollowTheirTruthTables : Obligations.MixingFunctionsFollowTheirTruthTables :=
  fun b c d _ hi => ⟨mixF_getLsbD b c d hi, mixG_getLsbD b c d hi, mixH_getLsbD b c d _, mixI_getLsbD b c d hi⟩

/-- Settles O21: `exec_decodeStep`, with the step written out. -/
theorem everyStepIsTheStepOfItsIndex : Obligations.EveryStepIsTheStepOfItsIndex :=
  fun t s => exec_decodeStep t s

/-- Settles O22: Compress as a fold, COMPRESS as `runCompress_eq` has it, and the two values run by the kernel. -/
theorem compressAnswersItsFunction : Obligations.CompressAnswersItsFunction := by
  refine ⟨compress_eq_foldl, fun s => ?_, by decide +kernel, by decide +kernel⟩
  obtain ⟨w, hw⟩ := runCompress_eq s.stateIn s.blockIn s
  exact ⟨w, congrArg Host.Outcome.next hw⟩

/-- Settles O14: the rows of the table are the model's own, and each round runs over its sixteen word indices. -/
theorem constantTablesAreTableT1 : Obligations.ConstantTablesAreTableT1 := by
  refine ⟨fun i t g sh k h => ?_, wordIndex_eq, by decide⟩
  obtain ⟨n, ⟨⟩⟩ := mem_tableRows h
  rw [BitVec.ofNat_toNat, BitVec.setWidth_eq]
  exact ⟨rfl, rfl, rfl⟩

/-- Settles O17: the rows of round 0 with F, the selections of F, and the worked example of R122. -/
theorem stepsFFRunAsTheTableSays : Obligations.StepsFFRunAsTheTableSays :=
  ⟨roundZeroRows_eq ▸ rowsOf_run rfl, fun b c d => ⟨mixF_zero c d, mixF_ones c d, mixF_same b c⟩, by decide⟩

/-- Settles O18: the rows of round 1 with G2, the selections of G2, and the worked example of R123. -/
theorem stepsGGRunAsTheTableSays : Obligations.StepsGGRunAsTheTableSays :=
  ⟨roundOneRows_eq ▸ rowsOf_run rfl, fun b c => ⟨mixG_zero b c, mixG_ones b c⟩, by decide⟩

/-- Settles O19: the rows of round 2 with Hx, what cancels in the parity, and the worked example of R124. -/
theorem stepsHHRunAsTheTableSays : Obligations.StepsHHRunAsTheTableSays :=
  ⟨roundTwoRows_eq ▸ rowsOf_run rfl, fun b d => ⟨mixH_cancel b d, mixH_cancel b b⟩, by decide⟩

/-- Settles O20: the rows of round 3 with I, its three special values, and the worked example of R125. -/
theorem stepsIIRunAsTheTableSays : Obligations.StepsIIRunAsTheTableSays :=
  ⟨roundThreeRows_eq ▸ rowsOf_run rfl,
    fun b c d => ⟨mixI_ones c d, mixI_zero_right b c, mixI_zero_left c⟩, by decide⟩

end Sys2Proof.Machine
